-- ==== Sys2Proof/Word.lean ====
section
/-!
DEFINITION. The word types of TEC.
A byte is 8 bits (R10), a register 32 bits (R22), a text code unit `TEXT_UNIT_BITS = 16` bits (R9, D5; log 11).
-/
namespace Sys2Proof

/-- An 8-bit value: an element of a Byte Sequence (R10, R15). -/
abbrev Byte := BitVec 8

/-- A code unit of a text operand: `TEXT_UNIT_BITS = 16` for this hardware (R9, R24; log 11). -/
abbrev TextUnit := BitVec 16

/-- A host-visible register or a command word: 32 bits (R22, R70). -/
abbrev Word := BitVec 32

end Sys2Proof
end

