-- ==== Sys2Proof/Syntax.lean ====
section
/-!
DEFINITION. The commands of TEC as syntax: byte orders, element kinds, and one constructor of `Instr` for each row of
spec/opcode_table.json (R74; the ten rows of ARRAY_FROM_ENDIAN are its ten legal KIND values, R73).
-/
namespace Sys2Proof

/-- A byte order: the ORD argument (R72), `HOST_BYTE_ORDER` (R9), the ORDER result (R26). -/
inductive ByteOrder where
  | little
  | big
deriving DecidableEq, Repr, Inhabited

/-- The eleven element kinds of R103. -/
inductive ElemKind where
  | int8
  | uint8
  | uint8clamped
  | int16
  | uint16
  | int32
  | uint32
  | int64
  | uint64
  | float32
  | float64
deriving DecidableEq, Repr

/-- Whether the test-only overrides exist: the parameter `TEST_HOOKS` (R9, R205). -/
inductive TestHooks where
  | present
  | absent
deriving DecidableEq, Repr

/-- The commands, one constructor per row of spec/opcode_table.json. -/
inductive Instr where
  /-- ENC_HEX, R124 -/
  | encHex
  /-- DEC_HEX, R125 -/
  | decHex
  /-- ENC_B64, R160 -/
  | encB64
  /-- DEC_B64, R170 -/
  | decB64
  /-- ENC_B64URL, R161 -/
  | encB64Url
  /-- DEC_B64URL, R171 -/
  | decB64Url
  /-- HOST_IS_BIG, R201 -/
  | hostIsBig
  /-- HOST_IS_LITTLE, R202 -/
  | hostIsLittle
  /-- HOST_ENDIANNESS, R204 -/
  | hostEndianness
  /-- ARRAY_TO_ENDIAN `<order>`, R210 -/
  | arrayToEndian (ord : ByteOrder)
  /-- ARRAY_FROM_ENDIAN `<order>, int8`, R211 -/
  | arrayFromEndianInt8 (ord : ByteOrder)
  /-- ARRAY_FROM_ENDIAN `<order>, uint8`, R211 -/
  | arrayFromEndianUint8 (ord : ByteOrder)
  /-- ARRAY_FROM_ENDIAN `<order>, int16`, R211 -/
  | arrayFromEndianInt16 (ord : ByteOrder)
  /-- ARRAY_FROM_ENDIAN `<order>, uint16`, R211 -/
  | arrayFromEndianUint16 (ord : ByteOrder)
  /-- ARRAY_FROM_ENDIAN `<order>, int32`, R211 -/
  | arrayFromEndianInt32 (ord : ByteOrder)
  /-- ARRAY_FROM_ENDIAN `<order>, uint32`, R211 -/
  | arrayFromEndianUint32 (ord : ByteOrder)
  /-- ARRAY_FROM_ENDIAN `<order>, int64`, R211 -/
  | arrayFromEndianInt64 (ord : ByteOrder)
  /-- ARRAY_FROM_ENDIAN `<order>, uint64`, R211 -/
  | arrayFromEndianUint64 (ord : ByteOrder)
  /-- ARRAY_FROM_ENDIAN `<order>, float32`, R211 -/
  | arrayFromEndianFloat32 (ord : ByteOrder)
  /-- ARRAY_FROM_ENDIAN `<order>, float64`, R211 -/
  | arrayFromEndianFloat64 (ord : ByteOrder)
  /-- TEST_FORCE_LITTLE, R206 -/
  | testForceLittle
  /-- TEST_FORCE_BIG, R207 -/
  | testForceBig
deriving DecidableEq, Repr

end Sys2Proof
end

