-- ==== Sys2Proof/Config.lean ====
section
/-!
DEFINITION. The implementation parameters (R9) and the free values.
The parameters stand in `State.params`, so that every claim over all states is a claim over all their values (log 1).
`opaque` constants have no body: no proof can see their value.
-/
namespace Sys2Proof

/-- The parameters of R9 that change behaviour: `HOST_BYTE_ORDER`, `MAX_LEN` (`none` is unbounded) and `TEST_HOOKS`.
`TEXT_UNIT_BITS = 16` is the width of `TextUnit` (log 11) and `NUM_HOSTS = 1` the single list of host actions (log 12). -/
structure Params where
  hostByteOrder : ByteOrder
  maxLen : Option Nat
  testHooks : TestHooks
deriving DecidableEq, Repr

/-- `HOST_BYTE_ORDER` of the machine `State.reset` stands for: OPEN in the spec (R9, D15), so no value is given (log 2). -/
opaque Config.hostByteOrder : ByteOrder

/-- The parameters `State.reset` holds: the host byte order open, `MAX_LEN` unbounded (DESIGN CHOICE, log 3: R9 allows it),
`TEST_HOOKS = present` (R9). -/
def Config.params : Params :=
  { hostByteOrder := Config.hostByteOrder, maxLen := none, testHooks := .present }

/-- FREE VALUE (log 8): what ERR_OFFSET, 32 bits wide (R29), holds when the index it should hold is 2^32 or more.
It may depend on the command word, on IN (its descriptor and its data) and on the index, which is all R59 lets it depend on. -/
opaque Config.freeErrOffset : Word → Word → List TextUnit → Nat → Word

/-- FREE VALUE (log 9): what the 32-bit length register at a given offset (IN_LEN or OUT_LEN, R22) reads as when the length
is 2^32 or more; it may depend on the port's descriptor and data. -/
opaque Config.freeLength : Nat → Word → List TextUnit → Word

end Sys2Proof
end

