-- ==== Sys2Proof/WellFormed.lean ====
section
/-!
DEFINITION. Which commands are well formed.
The constructors of `Instr` admit only legal ORD and KIND values (R75), so one check is left: the test-only overrides
exist only when `TEST_HOOKS = present` (R76, R205).
-/
namespace Sys2Proof

/-- A command that a word of R75 stands for, on hardware built with these test hooks (R75, R76, R205). -/
def Instr.wellFormed (hooks : TestHooks) : Instr → Bool
  | .encHex => true
  | .decHex => true
  | .encB64 => true
  | .decB64 => true
  | .encB64Url => true
  | .decB64Url => true
  | .hostIsBig => true
  | .hostIsLittle => true
  | .hostEndianness => true
  | .arrayToEndian _ => true
  | .arrayFromEndianInt8 _ => true
  | .arrayFromEndianUint8 _ => true
  | .arrayFromEndianInt16 _ => true
  | .arrayFromEndianUint16 _ => true
  | .arrayFromEndianInt32 _ => true
  | .arrayFromEndianUint32 _ => true
  | .arrayFromEndianInt64 _ => true
  | .arrayFromEndianUint64 _ => true
  | .arrayFromEndianFloat32 _ => true
  | .arrayFromEndianFloat64 _ => true
  | .testForceLittle => decide (hooks = .present)
  | .testForceBig => decide (hooks = .present)

end Sys2Proof
end

