-- ==== Sys2Proof/Decode.lean ====
section
/-!
DEFINITION. From command words to commands and back (30_encoding.md): the decoder of R80, total on every 32-bit word and
rejecting by name; the encoder, from the field table of R71 and the opcode table of R74; the assembler syntax of R83.
-/
namespace Sys2Proof

/-! ## Codes of the fields -/

/-- The 1-bit code of a byte order: 0 little, 1 big (R72). -/
def ByteOrder.code : ByteOrder → BitVec 1
  | .little => 0#1
  | .big => 1#1

/-- The byte order a 1-bit ORD field stands for (R72). -/
def ByteOrder.ofCode (c : BitVec 1) : ByteOrder :=
  if c = 0#1 then .little else .big

/-- The 4-bit element kind codes, the EK column of R103; also the KIND codes (R73). -/
def ElemKind.code : ElemKind → BitVec 4
  | .int8 => 0#4
  | .uint8 => 1#4
  | .uint8clamped => 2#4
  | .int16 => 3#4
  | .uint16 => 4#4
  | .int32 => 5#4
  | .uint32 => 6#4
  | .int64 => 7#4
  | .uint64 => 8#4
  | .float32 => 9#4
  | .float64 => 10#4

/-- The element kind of an EK code; 11 to 15 are reserved (R103). -/
def ElemKind.ofCode? (c : BitVec 4) : Option ElemKind :=
  match c.toNat with
  | 0 => some .int8
  | 1 => some .uint8
  | 2 => some .uint8clamped
  | 3 => some .int16
  | 4 => some .uint16
  | 5 => some .int32
  | 6 => some .uint32
  | 7 => some .int64
  | 8 => some .uint64
  | 9 => some .float32
  | 10 => some .float64
  | _ => none

/-! ## Decoding -/

/-- Why a command word is illegal: the checks of R80 (R76), in their order. -/
inductive IllegalWord where
  /-- RSV (bits 31:13) is not 0. -/
  | reservedBitsSet
  /-- OP is 0x00 or 0x0E to 0xFF. -/
  | reservedOpcode
  /-- OP is 0x0C or 0x0D while `TEST_HOOKS = absent`. -/
  | testHooksAbsent
  /-- ORD is set and OP is neither 0x0A nor 0x0B. -/
  | orderNotAllowed
  /-- KIND is not 0 and OP is not 0x0B. -/
  | kindNotAllowed
  /-- KIND of ARRAY_FROM_ENDIAN is 2 or 11 to 15. -/
  | illegalKind
deriving DecidableEq, Repr

/-- The ARRAY_FROM_ENDIAN command of a KIND field; KIND 2 and 11 to 15 are illegal (R73). -/
def arrayFromEndianOfKind (ord : ByteOrder) (kind : BitVec 4) : Option Instr :=
  match kind.toNat with
  | 0 => some (.arrayFromEndianInt8 ord)
  | 1 => some (.arrayFromEndianUint8 ord)
  | 3 => some (.arrayFromEndianInt16 ord)
  | 4 => some (.arrayFromEndianUint16 ord)
  | 5 => some (.arrayFromEndianInt32 ord)
  | 6 => some (.arrayFromEndianUint32 ord)
  | 7 => some (.arrayFromEndianInt64 ord)
  | 8 => some (.arrayFromEndianUint64 ord)
  | 9 => some (.arrayFromEndianFloat32 ord)
  | 10 => some (.arrayFromEndianFloat64 ord)
  | _ => none

/-- The command of an opcode with its fields, once the field checks of R80 have passed (R74). -/
def commandOfOp (op : BitVec 8) (ord : ByteOrder) (kind : BitVec 4) : Except IllegalWord Instr :=
  match op.toNat with
  | 0x01 => .ok .encHex
  | 0x02 => .ok .decHex
  | 0x03 => .ok .encB64
  | 0x04 => .ok .decB64
  | 0x05 => .ok .encB64Url
  | 0x06 => .ok .decB64Url
  | 0x07 => .ok .hostIsBig
  | 0x08 => .ok .hostIsLittle
  | 0x09 => .ok .hostEndianness
  | 0x0A => .ok (.arrayToEndian ord)
  | 0x0B =>
    match arrayFromEndianOfKind ord kind with
    | some i => .ok i
    | none => .error .illegalKind
  | 0x0C => .ok .testForceLittle
  | 0x0D => .ok .testForceBig
  | _ => .error .reservedOpcode

/-- The decoder of R80: its checks in the order the rule lists them. -/
def decode (hooks : TestHooks) (w : Word) : Except IllegalWord Instr :=
  let op : BitVec 8 := w.extractLsb 7 0
  let ord : BitVec 1 := w.extractLsb 8 8
  let kind : BitVec 4 := w.extractLsb 12 9
  let rsv : BitVec 19 := w.extractLsb 31 13
  if rsv ≠ 0#19 then .error .reservedBitsSet
  else if op < 0x01#8 ∨ 0x0D#8 < op then .error .reservedOpcode
  else if (op = 0x0C#8 ∨ op = 0x0D#8) ∧ hooks = .absent then .error .testHooksAbsent
  else if (op ≠ 0x0A#8 ∧ op ≠ 0x0B#8) ∧ ord ≠ 0#1 then .error .orderNotAllowed
  else if op ≠ 0x0B#8 ∧ kind ≠ 0#4 then .error .kindNotAllowed
  else commandOfOp op (ByteOrder.ofCode ord) kind

/-! ## Encoding -/

/-- The word of format C with these fields and RSV = 0 (R71). -/
def wordOfFields (kind : BitVec 4) (ord : BitVec 1) (op : BitVec 8) : Word :=
  0#19 ++ kind ++ ord ++ op

/-- The word of a command (R74, R75). -/
def encode : Instr → Word
  | .encHex => wordOfFields 0#4 0#1 0x01#8
  | .decHex => wordOfFields 0#4 0#1 0x02#8
  | .encB64 => wordOfFields 0#4 0#1 0x03#8
  | .decB64 => wordOfFields 0#4 0#1 0x04#8
  | .encB64Url => wordOfFields 0#4 0#1 0x05#8
  | .decB64Url => wordOfFields 0#4 0#1 0x06#8
  | .hostIsBig => wordOfFields 0#4 0#1 0x07#8
  | .hostIsLittle => wordOfFields 0#4 0#1 0x08#8
  | .hostEndianness => wordOfFields 0#4 0#1 0x09#8
  | .arrayToEndian ord => wordOfFields 0#4 ord.code 0x0A#8
  | .arrayFromEndianInt8 ord => wordOfFields ElemKind.int8.code ord.code 0x0B#8
  | .arrayFromEndianUint8 ord => wordOfFields ElemKind.uint8.code ord.code 0x0B#8
  | .arrayFromEndianInt16 ord => wordOfFields ElemKind.int16.code ord.code 0x0B#8
  | .arrayFromEndianUint16 ord => wordOfFields ElemKind.uint16.code ord.code 0x0B#8
  | .arrayFromEndianInt32 ord => wordOfFields ElemKind.int32.code ord.code 0x0B#8
  | .arrayFromEndianUint32 ord => wordOfFields ElemKind.uint32.code ord.code 0x0B#8
  | .arrayFromEndianInt64 ord => wordOfFields ElemKind.int64.code ord.code 0x0B#8
  | .arrayFromEndianUint64 ord => wordOfFields ElemKind.uint64.code ord.code 0x0B#8
  | .arrayFromEndianFloat32 ord => wordOfFields ElemKind.float32.code ord.code 0x0B#8
  | .arrayFromEndianFloat64 ord => wordOfFields ElemKind.float64.code ord.code 0x0B#8
  | .testForceLittle => wordOfFields 0#4 0#1 0x0C#8
  | .testForceBig => wordOfFields 0#4 0#1 0x0D#8

/-- What the decoder reads from the table's number of an instruction: a command is one 32-bit word written whole (R70,
R77), so the table's bit numbers are the word's own, and a number of more than 32 bits is no command. `TEST_HOOKS` is
`present` for this hardware (R9). -/
def decodeTableWord (nbits w : Nat) : Option Instr :=
  if nbits ≤ 32 ∧ w < 2 ^ nbits then
    match decode .present (BitVec.ofNat 32 w) with
    | .ok i => some i
    | .error _ => none
  else none

/-! ## Assembler syntax (R83; the spacing is log 28) -/

/-- The `<order>` spellings of R83. -/
def ByteOrder.spelling : ByteOrder → String
  | .little => "little"
  | .big => "big"

/-- The mnemonic of a command (R74). -/
def Instr.mnemonic : Instr → String
  | .encHex => "ENC_HEX"
  | .decHex => "DEC_HEX"
  | .encB64 => "ENC_B64"
  | .decB64 => "DEC_B64"
  | .encB64Url => "ENC_B64URL"
  | .decB64Url => "DEC_B64URL"
  | .hostIsBig => "HOST_IS_BIG"
  | .hostIsLittle => "HOST_IS_LITTLE"
  | .hostEndianness => "HOST_ENDIANNESS"
  | .arrayToEndian _ => "ARRAY_TO_ENDIAN"
  | .arrayFromEndianInt8 _ => "ARRAY_FROM_ENDIAN"
  | .arrayFromEndianUint8 _ => "ARRAY_FROM_ENDIAN"
  | .arrayFromEndianInt16 _ => "ARRAY_FROM_ENDIAN"
  | .arrayFromEndianUint16 _ => "ARRAY_FROM_ENDIAN"
  | .arrayFromEndianInt32 _ => "ARRAY_FROM_ENDIAN"
  | .arrayFromEndianUint32 _ => "ARRAY_FROM_ENDIAN"
  | .arrayFromEndianInt64 _ => "ARRAY_FROM_ENDIAN"
  | .arrayFromEndianUint64 _ => "ARRAY_FROM_ENDIAN"
  | .arrayFromEndianFloat32 _ => "ARRAY_FROM_ENDIAN"
  | .arrayFromEndianFloat64 _ => "ARRAY_FROM_ENDIAN"
  | .testForceLittle => "TEST_FORCE_LITTLE"
  | .testForceBig => "TEST_FORCE_BIG"

/-- The arguments of a command's assembly line (R83). -/
def Instr.arguments : Instr → String
  | .encHex => ""
  | .decHex => ""
  | .encB64 => ""
  | .decB64 => ""
  | .encB64Url => ""
  | .decB64Url => ""
  | .hostIsBig => ""
  | .hostIsLittle => ""
  | .hostEndianness => ""
  | .arrayToEndian ord => " " ++ ord.spelling
  | .arrayFromEndianInt8 ord => " " ++ ord.spelling ++ ", int8"
  | .arrayFromEndianUint8 ord => " " ++ ord.spelling ++ ", uint8"
  | .arrayFromEndianInt16 ord => " " ++ ord.spelling ++ ", int16"
  | .arrayFromEndianUint16 ord => " " ++ ord.spelling ++ ", uint16"
  | .arrayFromEndianInt32 ord => " " ++ ord.spelling ++ ", int32"
  | .arrayFromEndianUint32 ord => " " ++ ord.spelling ++ ", uint32"
  | .arrayFromEndianInt64 ord => " " ++ ord.spelling ++ ", int64"
  | .arrayFromEndianUint64 ord => " " ++ ord.spelling ++ ", uint64"
  | .arrayFromEndianFloat32 ord => " " ++ ord.spelling ++ ", float32"
  | .arrayFromEndianFloat64 ord => " " ++ ord.spelling ++ ", float64"
  | .testForceLittle => ""
  | .testForceBig => ""

/-- The assembly line of a command (R83). -/
def Instr.assembly (i : Instr) : String :=
  i.mnemonic ++ i.arguments

/-- The commands that take a byte order, for one byte order (R83). -/
def orderedCommands (ord : ByteOrder) : List Instr :=
  [.arrayToEndian ord, .arrayFromEndianInt8 ord, .arrayFromEndianUint8 ord, .arrayFromEndianInt16 ord,
   .arrayFromEndianUint16 ord, .arrayFromEndianInt32 ord, .arrayFromEndianUint32 ord, .arrayFromEndianInt64 ord,
   .arrayFromEndianUint64 ord, .arrayFromEndianFloat32 ord, .arrayFromEndianFloat64 ord]

/-- Every command (R74, R75). -/
def allCommands : List Instr :=
  [.encHex, .decHex, .encB64, .decB64, .encB64Url, .decB64Url, .hostIsBig, .hostIsLittle, .hostEndianness]
    ++ orderedCommands .little ++ orderedCommands .big ++ [.testForceLittle, .testForceBig]

/-- The word an assembly line assembles to; `none` for a line that is not in the grammar of R83. -/
def assemble (line : String) : Option Word :=
  (allCommands.find? fun i => i.assembly == line).map encode

end Sys2Proof
end

