-- ==== Sys2Proof/Machine/State.lean ====
section
/-!
DEFINITION. The state of TEC as plain data (10_state.md), the host actions it answers (60_exceptions.md R270), the
reasons a step can stop, and the state after reset (R35).
-/
namespace Sys2Proof.Machine

/-- The contents of a reverse lookup table: 256 entries of 8 bits (R32). -/
abbrev RevTable := Vector Byte 256

/-- The IN TAG codes that stand for no buffer and no string (R25): OTHER (0), or one of the eleven reserved codes 5 to
15, which every rule treats as OTHER. -/
inductive OtherTag where
  | other
  | reserved (n : Fin 11)
deriving DecidableEq, Repr

/-- The IN operand port (R24, R25). `ek` is the EK field of IN_DESC, which means something only under NUMERIC.
Data elements are bytes under RAW, VIEW and NUMERIC, text code units under TEXT; under OTHER they are ignored (log 13). -/
inductive InOperand where
  | other (tag : OtherTag) (ek : BitVec 4) (data : List TextUnit)
  | raw (ek : BitVec 4) (data : List Byte)
  | view (ek : BitVec 4) (data : List Byte)
  | text (ek : BitVec 4) (data : List TextUnit)
  | numeric (ek : BitVec 4) (data : List Byte)
deriving DecidableEq, Repr

/-- The OUT operand port (R26). NONE holds no value (R27); BOOL and ORDER hold one byte; NUMERIC holds its kind and the
bytes of its elements in host byte order. -/
inductive OutResult where
  | none
  | view (data : List Byte)
  | text (data : List TextUnit)
  | numeric (kind : ElemKind) (data : List Byte)
  | bool (b : Bool)
  | order (o : ByteOrder)
deriving DecidableEq, Repr

/-- HOST_FLAG (R31); the code 3 is never held (U12; log 23). -/
inductive HostFlag where
  | unset
  | little
  | big
deriving DecidableEq, Repr

/-- The reverse lookup tables that `ensure_built` of R153 names. -/
inductive TableId where
  | hex
  | std
  | url
deriving DecidableEq, Repr

/-- The error kinds of R250. -/
inductive ErrorKind where
  | unsupportedType
  | badInput
  | expectingString
  | invalidLength
  | unsupportedCharacter
  | mangledPadding
  | incompleteByteSequence
  | illegalCommand
deriving DecidableEq, Repr

/-- An error with what it records: `raise E(off, run)` of R13 and R252. -/
structure CmdError where
  kind : ErrorKind
  off : Nat
  run : BitVec 3
deriving DecidableEq, Repr

/-- The host actions of R270, and the write of a register other than CMD (R22). -/
inductive HostAction where
  /-- `SetIN`: an IN_DESC word (TAG in 3:0, EK in 7:4, the rest ignored, R24) and the data elements. -/
  | setIn (desc : Word) (data : List TextUnit)
  /-- `WriteCMD(w)`: start the command of word `w`. -/
  | writeCmd (w : Word)
  /-- A write to a register offset (R22). -/
  | writeReg (offset : Nat) (v : Word)
  /-- `ReadReg(r)`, by register offset (R22). -/
  | readReg (offset : Nat)
  /-- `ReadOUT()`. -/
  | readOut
  /-- `MOVE_OUT_TO_IN` (R271). -/
  | moveOutToIn
  /-- `Reset` (R290). -/
  | reset
deriving DecidableEq, Repr

/-- What a host action gives back to the host (R270). -/
inductive HostReply where
  | reg (offset : Nat) (value : Word)
  | out (result : OutResult)
deriving DecidableEq, Repr

/-- Model faults (R257): a fault is not an architectural error of a command. -/
inductive Fault where
  /-- Raised by the host action `ReadOUT` while OUT is NONE (R27, R257). Safe: the spec gives the read no value. -/
  | readOutWhileNone
  /-- Raised by the host action `MOVE_OUT_TO_IN` while OUT is NONE (R257, R271). Safe: the spec makes it a fault. -/
  | moveOutWhileNone
deriving DecidableEq, Repr

/-- Refusals: what the model gives no meaning (R257). -/
inductive Refusal where
  /-- Raised by an arm of `exec` whose command has no meaning yet. Safe. -/
  | notModelled (mnemonic : String)
  /-- Raised by every legal command while `IN_LEN > MAX_LEN` (R68; log 16). Safe: the spec refuses. -/
  | operandBeyondMaxLen
  /-- Raised by a command whose output length would exceed `MAX_LEN` (R68). Safe: the spec refuses. -/
  | resultBeyondMaxLen
  /-- Raised by `SetIN` when an element does not fit the width of its TAG: such a SetIN "cannot be sent" (R270; log 13). Safe. -/
  | setInCannotBeSent
  /-- Raised by a host write of IN_DESC or IN_LEN alone: TAG, EK, IN_LEN and DATA are set together (R24; log 14). Safe. -/
  | inPortWrittenInPart
deriving DecidableEq, Repr

/-- The state of TEC (10_state.md), with the parameters (log 1), the host's pending actions (log 4) and the replies the
host has had (log 5) beside it. IN_DESC, IN_LEN, OUT_DESC and OUT_LEN are computed from `inp` and `out` (log 10). -/
structure State where
  /-- The parameters of R9; no step changes them. -/
  params : Params
  /-- Host actions still to come, oldest first. -/
  host : List HostAction
  /-- What the host was given back, oldest first. -/
  replies : List HostReply
  /-- CMD (R23). -/
  cmd : Word
  /-- The IN port (R24). -/
  inp : InOperand
  /-- The OUT port (R26). -/
  out : OutResult
  /-- STATUS (R28). -/
  status : Word
  /-- ERR_OFFSET (R29). -/
  errOffset : Word
  /-- HOST_FLAG (R31). -/
  hostFlag : HostFlag
  /-- HOST_SCRATCH (R30). -/
  hostScratch : Vector Byte 2
  /-- HEX_TBL (R32). -/
  hexTbl : RevTable
  /-- HEX_VALID (R32). -/
  hexValid : Bool
  /-- B64_TBL_STD (R32). -/
  b64StdTbl : RevTable
  /-- B64_VALID_STD (R32). -/
  b64StdValid : Bool
  /-- B64_TBL_URL (R32). -/
  b64UrlTbl : RevTable
  /-- B64_VALID_URL (R32). -/
  b64UrlValid : Bool
deriving DecidableEq, Repr

/-- A table whose entries are all zero: what the model has a table hold at reset, where the spec leaves the contents
unspecified (R35; DESIGN CHOICE, log 6). -/
def zeroTable : RevTable :=
  Vector.replicate 256 0#8

/-- The state after a reset of hardware built with these parameters (R35), with no host action pending and no reply given.
HOST_SCRATCH and the table contents are DESIGN CHOICES (log 6, log 7): the spec leaves them unspecified. -/
def State.resetWith (p : Params) : State :=
  { params := p
    host := []
    replies := []
    cmd := 0#32
    inp := .other .other 0#4 []
    out := .none
    status := 0#32
    errOffset := 0#32
    hostFlag := .unset
    hostScratch := Vector.replicate 2 0#8
    hexTbl := zeroTable
    hexValid := false
    b64StdTbl := zeroTable
    b64StdValid := false
    b64UrlTbl := zeroTable
    b64UrlValid := false }

/-- The state right after reset (R35, R290). -/
def State.reset : State :=
  State.resetWith Config.params

end Sys2Proof.Machine
end

