-- ==== Sys2Proof/Machine/Tables.lean ====
section
/-!
DEFINITION. The constant tables (R33) and the contents of the reverse lookup tables once built (R120, R152).
Code points are ASCII (R14, GK1); alphabet entries 0 to 61 are RFC 4648's, as R150 lists them (GK2; log 27).
-/
namespace Sys2Proof.Machine

/-- The sentinel of a reverse lookup table: not part of this alphabet (R10, R15). -/
def sentinel : Byte := 255#8

/-- PAD, the padding character `=` (R33). -/
def pad : TextUnit := 0x3D#16

/-- HEX_DIGITS, "0123456789ABCDEF" (R121). -/
def hexDigits : Vector TextUnit 16 :=
  #v[0x30#16, 0x31#16, 0x32#16, 0x33#16, 0x34#16, 0x35#16, 0x36#16, 0x37#16,
     0x38#16, 0x39#16, 0x41#16, 0x42#16, 0x43#16, 0x44#16, 0x45#16, 0x46#16]

/-- ALPHA_STD (R150). -/
def alphaStd : Vector TextUnit 64 :=
  #v[0x41#16, 0x42#16, 0x43#16, 0x44#16, 0x45#16, 0x46#16, 0x47#16, 0x48#16,
     0x49#16, 0x4A#16, 0x4B#16, 0x4C#16, 0x4D#16, 0x4E#16, 0x4F#16, 0x50#16,
     0x51#16, 0x52#16, 0x53#16, 0x54#16, 0x55#16, 0x56#16, 0x57#16, 0x58#16,
     0x59#16, 0x5A#16, 0x61#16, 0x62#16, 0x63#16, 0x64#16, 0x65#16, 0x66#16,
     0x67#16, 0x68#16, 0x69#16, 0x6A#16, 0x6B#16, 0x6C#16, 0x6D#16, 0x6E#16,
     0x6F#16, 0x70#16, 0x71#16, 0x72#16, 0x73#16, 0x74#16, 0x75#16, 0x76#16,
     0x77#16, 0x78#16, 0x79#16, 0x7A#16, 0x30#16, 0x31#16, 0x32#16, 0x33#16,
     0x34#16, 0x35#16, 0x36#16, 0x37#16, 0x38#16, 0x39#16, 0x2B#16, 0x2F#16]

/-- ALPHA_URL (R150). -/
def alphaUrl : Vector TextUnit 64 :=
  #v[0x41#16, 0x42#16, 0x43#16, 0x44#16, 0x45#16, 0x46#16, 0x47#16, 0x48#16,
     0x49#16, 0x4A#16, 0x4B#16, 0x4C#16, 0x4D#16, 0x4E#16, 0x4F#16, 0x50#16,
     0x51#16, 0x52#16, 0x53#16, 0x54#16, 0x55#16, 0x56#16, 0x57#16, 0x58#16,
     0x59#16, 0x5A#16, 0x61#16, 0x62#16, 0x63#16, 0x64#16, 0x65#16, 0x66#16,
     0x67#16, 0x68#16, 0x69#16, 0x6A#16, 0x6B#16, 0x6C#16, 0x6D#16, 0x6E#16,
     0x6F#16, 0x70#16, 0x71#16, 0x72#16, 0x73#16, 0x74#16, 0x75#16, 0x76#16,
     0x77#16, 0x78#16, 0x79#16, 0x7A#16, 0x30#16, 0x31#16, 0x32#16, 0x33#16,
     0x34#16, 0x35#16, 0x36#16, 0x37#16, 0x38#16, 0x39#16, 0x2D#16, 0x5F#16]

/-- The entry of HEX_TBL for code unit value `u` (R120). -/
def hexEntry (u : Nat) : Byte :=
  if 0x30 ≤ u ∧ u ≤ 0x39 then BitVec.ofNat 8 (u - 0x30)
  else if 0x41 ≤ u ∧ u ≤ 0x46 then BitVec.ofNat 8 (u - 0x41 + 10)
  else if 0x61 ≤ u ∧ u ≤ 0x66 then BitVec.ofNat 8 (u - 0x61 + 10)
  else sentinel

/-- The entry of an alphabet's reverse table for code unit value `u`: the index that holds `u`, else the sentinel (R152). -/
def alphaEntry (alpha : Vector TextUnit 64) (u : Nat) : Byte :=
  match alpha.toList.findIdx? (fun c => c.toNat == u) with
  | some i => BitVec.ofNat 8 i
  | none => sentinel

/-- The table with entry `f u` at every code unit value `u` from 0 to 255. -/
def tableOf (f : Nat → Byte) : RevTable :=
  ⟨((List.range 256).map f).toArray, by simp⟩

/-- What a build writes into a table (R153, with R120 for HEX and R152 for STD and URL). -/
def builtTable : TableId → RevTable
  | .hex => tableOf hexEntry
  | .std => tableOf (alphaEntry alphaStd)
  | .url => tableOf (alphaEntry alphaUrl)

/-- `lookup(T, u)`: a code unit above 255 has no entry and gives the sentinel (R106). -/
def lookup (t : RevTable) (u : TextUnit) : Byte :=
  if h : u.toNat < 256 then t[u.toNat] else sentinel

end Sys2Proof.Machine
end

