-- ==== Sys2Proof/Machine/Operands.lean ====
section
/-!
DEFINITION. The operand forms: the ports as the host's registers show them (R24, R26), element kinds (R103, R104), and
the acceptance functions (R100, R102, R105).
-/
namespace Sys2Proof.Machine

/-- The width EW of an element kind, in bytes (R103). -/
def elemWidth : ElemKind → Nat
  | .int8 => 1
  | .uint8 => 1
  | .uint8clamped => 1
  | .int16 => 2
  | .uint16 => 2
  | .int32 => 4
  | .uint32 => 4
  | .int64 => 8
  | .uint64 => 8
  | .float32 => 4
  | .float64 => 8

/-! ## The ports as registers show them -/

/-- A byte as a 16-bit element of a host action. -/
def unitOfByte (b : Byte) : TextUnit := b.setWidth 16

/-- The TAG code of IN (R25). -/
def inTag : InOperand → BitVec 4
  | .other .other _ _ => 0#4
  | .other (.reserved n) _ _ => BitVec.ofNat 4 (n.val + 5)
  | .raw _ _ => 1#4
  | .view _ _ => 2#4
  | .text _ _ => 3#4
  | .numeric _ _ => 4#4

/-- The EK field of IN (R24). -/
def inEk : InOperand → BitVec 4
  | .other _ ek _ => ek
  | .raw ek _ => ek
  | .view ek _ => ek
  | .text ek _ => ek
  | .numeric ek _ => ek

/-- The elements of IN, bytes widened to 16 bits. -/
def inElems : InOperand → List TextUnit
  | .other _ _ d => d
  | .raw _ d => d.map unitOfByte
  | .view _ d => d.map unitOfByte
  | .text _ d => d
  | .numeric _ d => d.map unitOfByte

/-- The length of IN (R24). -/
def inLength : InOperand → Nat
  | .other _ _ d => d.length
  | .raw _ d => d.length
  | .view _ d => d.length
  | .text _ d => d.length
  | .numeric _ d => d.length

/-- IN_DESC: TAG in 3:0, EK in 7:4, the rest reads 0 (R24). -/
def inDesc (i : InOperand) : Word := 0#24 ++ inEk i ++ inTag i

/-- The TAG code of OUT (R26). -/
def outTag : OutResult → BitVec 4
  | .none => 0#4
  | .view _ => 2#4
  | .text _ => 3#4
  | .numeric _ _ => 4#4
  | .bool _ => 5#4
  | .order _ => 6#4

/-- The EK field of OUT: 0 unless the TAG is NUMERIC (R26, R82, R252). -/
def outEk : OutResult → BitVec 4
  | .none => 0#4
  | .view _ => 0#4
  | .text _ => 0#4
  | .numeric k _ => k.code
  | .bool _ => 0#4
  | .order _ => 0#4

/-- The byte of a BOOL result: 0 false, 1 true (R26). -/
def boolByte (b : Bool) : Byte := if b then 1#8 else 0#8

/-- The byte of an ORDER result: 0 little, 1 big (R26, R72). -/
def orderByte (o : ByteOrder) : Byte := o.code.setWidth 8

/-- The elements of OUT, bytes widened to 16 bits; NONE holds none (R26, R27). -/
def outElems : OutResult → List TextUnit
  | .none => []
  | .view d => d.map unitOfByte
  | .text d => d
  | .numeric _ d => d.map unitOfByte
  | .bool b => [unitOfByte (boolByte b)]
  | .order o => [unitOfByte (orderByte o)]

/-- OUT_DESC: TAG in 3:0, EK in 7:4, the rest reads 0 (R26). -/
def outDesc (o : OutResult) : Word := 0#24 ++ outEk o ++ outTag o

/-! ## Setting IN -/

/-- Data elements as bytes, when each fits 8 bits (R24, R270). -/
def bytesOfUnits (d : List TextUnit) : Option (List Byte) :=
  if d.all (fun u => u < 256#16) then some (d.map fun u => u.setWidth 8) else none

/-- The IN operand that an IN_DESC word and data elements stand for; IN_DESC bits 31:8 are ignored (R24, R25).
`none` where an element does not fit the TAG's width (R270). -/
def operandOfDesc (desc : Word) (d : List TextUnit) : Option InOperand :=
  let tag : BitVec 4 := desc.extractLsb 3 0
  let ek : BitVec 4 := desc.extractLsb 7 4
  match tag.toNat with
  | 0 => some (.other .other ek d)
  | 1 => (bytesOfUnits d).map (.raw ek)
  | 2 => (bytesOfUnits d).map (.view ek)
  | 3 => some (.text ek d)
  | 4 => (bytesOfUnits d).map (.numeric ek)
  | n => some (.other (.reserved (Fin.ofNat 11 (n - 5))) ek d)

/-! ## Acceptance functions -/

/-- The kind of a well-formed NUMERIC operand: `EK <= 10` and `IN_LEN mod EW(EK) = 0` (R104). -/
def numericKind? (ek : BitVec 4) (d : List Byte) : Option ElemKind :=
  match ElemKind.ofCode? ek with
  | some k => if d.length % elemWidth k = 0 then some k else none
  | none => none

/-- `view()`: the bytes of a RAW, VIEW or well-formed NUMERIC operand as they stand; `none` is UnsupportedType (R100). -/
def acceptView : InOperand → Option (List Byte)
  | .raw _ d => some d
  | .view _ d => some d
  | .numeric ek d =>
    match numericKind? ek d with
    | some _ => some d
    | none => none
  | .text _ _ => none
  | .other _ _ _ => none

/-- `numeric()`: the kind and the bytes of a well-formed NUMERIC operand; `none` is UnsupportedType (R102). -/
def acceptNumeric : InOperand → Option (ElemKind × List Byte)
  | .numeric ek d =>
    match numericKind? ek d with
    | some k => some (k, d)
    | none => none
  | .raw _ _ => none
  | .view _ _ => none
  | .text _ _ => none
  | .other _ _ _ => none

/-- `text()`: the code units of a TEXT operand; `none` is ExpectingString (R105). -/
def acceptText : InOperand → Option (List TextUnit)
  | .text _ d => some d
  | .raw _ _ => none
  | .view _ _ => none
  | .numeric _ _ => none
  | .other _ _ _ => none

end Sys2Proof.Machine
end

