-- ==== Sys2Proof/Machine/Flags.lean ====
section
/-!
DEFINITION. The condition registers: STATUS (R28) and ERR_OFFSET (R29), and the error codes of R250.
-/
namespace Sys2Proof.Machine

/-- The ERR code of an error kind (R250). -/
def errCode : ErrorKind → BitVec 4
  | .unsupportedType => 1#4
  | .badInput => 2#4
  | .expectingString => 3#4
  | .invalidLength => 4#4
  | .unsupportedCharacter => 5#4
  | .mangledPadding => 6#4
  | .incompleteByteSequence => 7#4
  | .illegalCommand => 8#4

/-- STATUS as a command's completion writes it: RUN in 10:8, VALID = 1 in bit 4, ERR in 3:0, reserved bits 0 (R28). -/
def statusWord (err : BitVec 4) (run : BitVec 3) : Word :=
  0#21 ++ run ++ 0#3 ++ 1#1 ++ err

/-- STATUS.ERR (R28). -/
def statusErr (w : Word) : BitVec 4 := w.extractLsb 3 0

/-- STATUS.VALID (R28). -/
def statusValid (w : Word) : BitVec 1 := w.extractLsb 4 4

/-- STATUS.RUN (R28). -/
def statusRun (w : Word) : BitVec 3 := w.extractLsb 10 8

/-- ERR_OFFSET for an element index (R29): the index itself where 32 bits hold it, else a free value that may depend on
the command word, IN and the index (R59; log 8). -/
def errOffsetWord (cmd : Word) (inp : InOperand) (off : Nat) : Word :=
  if off < 2 ^ 32 then BitVec.ofNat 32 off else Config.freeErrOffset cmd (inDesc inp) (inElems inp) off

/-- A length register (R22): the length itself where 32 bits hold it, else a free value that may depend on the register's
offset and on the port's descriptor and data (log 9). -/
def lengthWord (offset : Nat) (desc : Word) (elems : List TextUnit) : Word :=
  if elems.length < 2 ^ 32 then BitVec.ofNat 32 elems.length else Config.freeLength offset desc elems

end Sys2Proof.Machine
end

