-- ==== Sys2Proof/Machine/Ops.lean ====
section
/-!
DEFINITION. The operations every command is built from: the length bound (R68), success (R82), `raise` (R252),
`ensure_built` (R153) and host detection (R200).
-/
namespace Sys2Proof.Machine

/-- The outcome of a step of TEC. -/
abbrev StepOutcome := Host.Outcome State Fault Refusal

/-- The next state of an outcome, where there is one. -/
def nextState? : StepOutcome → Option State
  | .next s => some s
  | .fault _ => none
  | .refused _ => none

/-! ## Length bound -/

/-- A length within `MAX_LEN` (R68); every length is when `MAX_LEN` is unbounded. -/
def withinMax (p : Params) (n : Nat) : Bool :=
  match p.maxLen with
  | none => true
  | some m => decide (n ≤ m)

/-- A legal command runs only with `IN_LEN` within `MAX_LEN` (R68; log 16). -/
def guardIn (s : State) (k : StepOutcome) : StepOutcome :=
  if withinMax s.params (inLength s.inp) then k else .refused .operandBeyondMaxLen

/-- A command goes on only with its output length `lOut` within `MAX_LEN` (R66, R68). -/
def guardOut (s : State) (lOut : Nat) (k : StepOutcome) : StepOutcome :=
  if withinMax s.params lOut then k else .refused .resultBeyondMaxLen

/-! ## Completion -/

/-- Success (R82): the result goes to OUT, STATUS is VALID with ERR = 0 and RUN = 0, ERR_OFFSET is 0. -/
def complete (s : State) (r : OutResult) : State :=
  { s with out := r, status := statusWord 0#4 0#3, errOffset := 0#32 }

/-- `raise E(off, run)` (R252): OUT becomes NONE, STATUS is VALID with the code of E and RUN, ERR_OFFSET locates the error.
This is TEC's one form of exception: no state is saved, no control moves and there is no return (R251, R255). -/
def raiseError (s : State) (e : CmdError) : State :=
  { s with
    out := .none
    status := statusWord (errCode e.kind) e.run
    errOffset := errOffsetWord s.cmd s.inp e.off }

/-! ## Reverse lookup tables -/

/-- The contents of a table (R32). -/
def tableEntries (s : State) : TableId → RevTable
  | .hex => s.hexTbl
  | .std => s.b64StdTbl
  | .url => s.b64UrlTbl

/-- The valid flag of a table (R32). -/
def tableValid (s : State) : TableId → Bool
  | .hex => s.hexValid
  | .std => s.b64StdValid
  | .url => s.b64UrlValid

/-- Write all the entries of a table and set its valid flag (R153). -/
def buildTable (t : TableId) (s : State) : State :=
  match t with
  | .hex => { s with hexTbl := builtTable .hex, hexValid := true }
  | .std => { s with b64StdTbl := builtTable .std, b64StdValid := true }
  | .url => { s with b64UrlTbl := builtTable .url, b64UrlValid := true }

/-- `ensure_built(T)`: build the table unless it is valid (R153). -/
def ensureBuilt (t : TableId) (s : State) : State :=
  if tableValid s t then s else buildTable t s

/-! ## Host detection -/

/-- The 16-bit value 1 in the host's native layout, as detection writes it (R200). -/
def probeBytes : ByteOrder → Vector Byte 2
  | .little => #v[1#8, 0#8]
  | .big => #v[0#8, 1#8]

/-- The flag that a probed scratch gives: LITTLE when its first byte is not 0, else BIG (R200). -/
def flagOfScratch (m : Vector Byte 2) : HostFlag :=
  if m[0] ≠ 0#8 then .little else .big

/-- `detect()`: compute HOST_FLAG while it is UNSET, else change nothing (R200). -/
def detect (s : State) : State :=
  match s.hostFlag with
  | .unset =>
    { s with
      hostScratch := probeBytes s.params.hostByteOrder
      hostFlag := flagOfScratch (probeBytes s.params.hostByteOrder) }
  | .little => s
  | .big => s

/-- `flag_ord()`: the byte order of HOST_FLAG (R203). Every caller runs `detect` first, so UNSET does not occur; that arm
gives the order detection would find (log 17). -/
def flagOrd (s : State) : ByteOrder :=
  match s.hostFlag with
  | .little => .little
  | .big => .big
  | .unset => s.params.hostByteOrder

end Sys2Proof.Machine
end

