-- ==== Sys2Proof/Machine/Base64.lean ====
section
/-!
DEFINITION. The Base64 encoder and decoder with their alphabet tables (42_base64.md).
-/
namespace Sys2Proof.Machine

/-- The two variants of R151. -/
inductive Variant where
  | std
  | url
deriving DecidableEq, Repr

/-- ALPHA_V (R151). -/
def alphabet : Variant → Vector TextUnit 64
  | .std => alphaStd
  | .url => alphaUrl

/-- PAD_V: whether the encoder writes padding (R151). -/
def padOn : Variant → Bool
  | .std => true
  | .url => false

/-- The reverse table of a variant (R151). -/
def variantTable : Variant → TableId
  | .std => .std
  | .url => .url

/-! ## Lengths -/

/-- `enc_len(n, PAD_V)` (R154); `ceil(n/3)` is `(n + 2) div 3` (R11). -/
def encLen (n : Nat) (padding : Bool) : Nat :=
  if padding ∨ n % 3 = 0 then 4 * ((n + 2) / 3)
  else if n % 3 = 1 then 4 * ((n + 2) / 3) - 2
  else 4 * ((n + 2) / 3) - 1

/-- `dec_len(L)`, for `L mod 4` not equal to 1 (R155). -/
def decLen (l : Nat) : Nat :=
  3 * (l / 4) + (if l % 4 = 2 then 1 else if l % 4 = 3 then 2 else 0)

/-- The text without its trailing `=` units; its length is `strip_len(t)` (R173). -/
def stripPad (t : List TextUnit) : List TextUnit :=
  (t.reverse.dropWhile (fun u => u == pad)).reverse

/-! ## Encoding -/

/-- The 6-bit field of a number that starts at bit `lo`: `w[lo+5:lo]` (R11). -/
def sextet (w lo : Nat) : Fin 64 :=
  ⟨(w >>> lo) % 64, Nat.mod_lt _ (by decide)⟩

/-- The four characters of a full group (R156). -/
def encGroup (v : Variant) (b0 b1 b2 : Byte) : List TextUnit :=
  let w := (b0.toNat <<< 16) ||| (b1.toNat <<< 8) ||| b2.toNat
  [(alphabet v)[sextet w 18], (alphabet v)[sextet w 12], (alphabet v)[sextet w 6], (alphabet v)[sextet w 0]]

/-- The characters of a 1-byte tail, with its padding (R157). -/
def encTail1 (v : Variant) (b0 : Byte) : List TextUnit :=
  let w := b0.toNat <<< 16
  [(alphabet v)[sextet w 18], (alphabet v)[sextet w 12]] ++ (if padOn v then [pad, pad] else [])

/-- The characters of a 2-byte tail, with its padding (R157). -/
def encTail2 (v : Variant) (b0 b1 : Byte) : List TextUnit :=
  let w := (b0.toNat <<< 16) ||| (b1.toNat <<< 8)
  [(alphabet v)[sextet w 18], (alphabet v)[sextet w 12], (alphabet v)[sextet w 6]]
    ++ (if padOn v then [pad] else [])

/-- The text of a byte sequence: full groups left to right, then the tail (R162). -/
def b64Text (v : Variant) : List Byte → List TextUnit
  | b0 :: b1 :: b2 :: rest => encGroup v b0 b1 b2 ++ b64Text v rest
  | [b0, b1] => encTail2 v b0 b1
  | [b0] => encTail1 v b0
  | [] => []

/-- `b64enc(V)` (R162). -/
def b64Encode (v : Variant) (s : State) : StepOutcome :=
  guardIn s <|
    match acceptView s.inp with
    | none => .next (raiseError s ⟨.unsupportedType, 0, 0#3⟩)
    | some b => guardOut s (encLen b.length (padOn v)) (.next (complete s (.text (b64Text v b))))

/-! ## Decoding -/

/-- The three bytes of four 6-bit values (R158). -/
def decGroup (v0 v1 v2 v3 : Byte) : List Byte :=
  let w := (v0.toNat <<< 18) ||| (v1.toNat <<< 12) ||| (v2.toNat <<< 6) ||| v3.toNat
  [BitVec.ofNat 8 (w >>> 16), BitVec.ofNat 8 (w >>> 8), BitVec.ofNat 8 w]

/-- The first byte of a tail: `(v0 << 2) | (v1 >> 4)` (R159). -/
def tailByte0 (v0 v1 : Byte) : Byte :=
  BitVec.ofNat 8 ((v0.toNat <<< 2) ||| (v1.toNat >>> 4))

/-- The second byte of a 3-character tail: `(v1[3:0] << 4) | (v2 >> 2)` (R159). -/
def tailByte1 (v1 v2 : Byte) : Byte :=
  BitVec.ofNat 8 (((v1.toNat % 16) <<< 4) ||| (v2.toNat >>> 2))

/-- The groups and the tail of a stripped text from index `off` on, with the checks of R172 in its order. A text of length
1 mod 4 never comes here: R172 checks the length first, and the single-character arm answers as that check does. -/
def b64Bytes (t : RevTable) : Nat → List TextUnit → Except CmdError (List Byte)
  | off, c0 :: c1 :: c2 :: c3 :: rest =>
    if lookup t c0 = sentinel ∨ lookup t c1 = sentinel ∨ lookup t c2 = sentinel ∨ lookup t c3 = sentinel then
      .error ⟨.unsupportedCharacter, off, 4#3⟩
    else
      match b64Bytes t (off + 4) rest with
      | .ok bs => .ok (decGroup (lookup t c0) (lookup t c1) (lookup t c2) (lookup t c3) ++ bs)
      | .error e => .error e
  | off, [c0, c1, c2] =>
    if lookup t c0 = sentinel ∨ lookup t c1 = sentinel ∨ lookup t c2 = sentinel then
      .error ⟨.unsupportedCharacter, off, 3#3⟩
    else if (lookup t c2).toNat % 4 ≠ 0 then .error ⟨.mangledPadding, off + 2, 0#3⟩
    else .ok [tailByte0 (lookup t c0) (lookup t c1), tailByte1 (lookup t c1) (lookup t c2)]
  | off, [c0, c1] =>
    if lookup t c0 = sentinel ∨ lookup t c1 = sentinel then .error ⟨.unsupportedCharacter, off, 2#3⟩
    else if (lookup t c1).toNat % 16 ≠ 0 then .error ⟨.mangledPadding, off + 1, 0#3⟩
    else .ok [tailByte0 (lookup t c0) (lookup t c1)]
  | off, [_] => .error ⟨.invalidLength, off + 1, 0#3⟩
  | _, [] => .ok []

/-- `b64dec(V)` (R172): acceptance, table build, stripped length, then groups and tail. -/
def b64Decode (v : Variant) (s : State) : StepOutcome :=
  guardIn s <|
    match acceptText s.inp with
    | none => .next (raiseError s ⟨.expectingString, 0, 0#3⟩)
    | some t =>
      let s := ensureBuilt (variantTable v) s
      let u := stripPad t
      if u.length % 4 = 1 then .next (raiseError s ⟨.invalidLength, u.length, 0#3⟩)
      else
        guardOut s (decLen u.length) <|
          match b64Bytes (tableEntries s (variantTable v)) 0 u with
          | .error e => .next (raiseError s e)
          | .ok bs => .next (complete s (.view bs))

/-! ## Commands -/

/-- ENC_B64 (R160). -/
def execEncB64 (s : State) : StepOutcome := b64Encode .std s

/-- ENC_B64URL (R161). -/
def execEncB64Url (s : State) : StepOutcome := b64Encode .url s

/-- DEC_B64 (R170). -/
def execDecB64 (s : State) : StepOutcome := b64Decode .std s

/-- DEC_B64URL (R171). -/
def execDecB64Url (s : State) : StepOutcome := b64Decode .url s

end Sys2Proof.Machine
end

