-- ==== Sys2Proof/Machine/Endian.lean ====
section
/-!
DEFINITION. The endianness byte reorderer (43_endianness.md): host queries, test-only overrides, ARRAY_TO_ENDIAN and
ARRAY_FROM_ENDIAN.
-/
namespace Sys2Proof.Machine

/-! ## Host queries -/

/-- A host query (R201, R202, R204): IN is not read, detection runs, the result is one element. -/
def hostQuery (result : State → OutResult) (s : State) : StepOutcome :=
  guardIn s <| guardOut s 1 <| .next (complete (detect s) (result (detect s)))

/-- HOST_IS_BIG (R201). -/
def execHostIsBig (s : State) : StepOutcome :=
  hostQuery (fun s => .bool (decide (s.hostFlag = .big))) s

/-- HOST_IS_LITTLE (R202). -/
def execHostIsLittle (s : State) : StepOutcome :=
  hostQuery (fun s => .bool (decide (s.hostFlag = .little))) s

/-- HOST_ENDIANNESS (R204). -/
def execHostEndianness (s : State) : StepOutcome :=
  hostQuery (fun s => .order (flagOrd s)) s

/-! ## Test-only overrides -/

/-- Force HOST_FLAG, on hardware that has the test hooks; else the command is illegal (R205, R206, R207). -/
def forceFlag (f : HostFlag) (s : State) : StepOutcome :=
  match s.params.testHooks with
  | .absent => .next (raiseError s ⟨.illegalCommand, 0, 0#3⟩)
  | .present => guardIn s <| guardOut s 0 <| .next (complete { s with hostFlag := f } .none)

/-- TEST_FORCE_LITTLE (R206). -/
def execTestForceLittle (s : State) : StepOutcome := forceFlag .little s

/-- TEST_FORCE_BIG (R207). -/
def execTestForceBig (s : State) : StepOutcome := forceFlag .big s

/-! ## Reordering -/

/-- `reorder(b, w, ord)` against the order of HOST_FLAG: each `w`-byte element is copied where the orders agree and
reversed otherwise (R208). -/
def reorder (flag : ByteOrder) (b : List Byte) (w : Nat) (ord : ByteOrder) : List Byte :=
  (List.range (b.length / w)).flatMap fun e =>
    if ord = flag then (b.drop (e * w)).take w else ((b.drop (e * w)).take w).reverse

/-- ARRAY_TO_ENDIAN (R210). -/
def execArrayToEndian (ord : ByteOrder) (s : State) : StepOutcome :=
  guardIn s <|
    match acceptNumeric s.inp with
    | none => .next (raiseError s ⟨.unsupportedType, 0, 0#3⟩)
    | some (k, b) =>
      let s := detect s
      guardOut s b.length (.next (complete s (.view (reorder (flagOrd s) b (elemWidth k) ord))))

/-- ARRAY_FROM_ENDIAN for one element kind (R211): acceptance, length, detection, reordering. -/
def arrayFromEndian (kind : ElemKind) (ord : ByteOrder) (s : State) : StepOutcome :=
  guardIn s <|
    match acceptView s.inp with
    | none => .next (raiseError s ⟨.unsupportedType, 0, 0#3⟩)
    | some b =>
      if b.length &&& (elemWidth kind - 1) ≠ 0 then
        .next (raiseError s ⟨.incompleteByteSequence, b.length, 0#3⟩)
      else
        let s := detect s
        guardOut s b.length (.next (complete s (.numeric kind (reorder (flagOrd s) b (elemWidth kind) ord))))

/-- ARRAY_FROM_ENDIAN `<order>, int8` (R211). -/
def execArrayFromEndianInt8 (ord : ByteOrder) (s : State) : StepOutcome := arrayFromEndian .int8 ord s

/-- ARRAY_FROM_ENDIAN `<order>, uint8` (R211). -/
def execArrayFromEndianUint8 (ord : ByteOrder) (s : State) : StepOutcome := arrayFromEndian .uint8 ord s

/-- ARRAY_FROM_ENDIAN `<order>, int16` (R211). -/
def execArrayFromEndianInt16 (ord : ByteOrder) (s : State) : StepOutcome := arrayFromEndian .int16 ord s

/-- ARRAY_FROM_ENDIAN `<order>, uint16` (R211). -/
def execArrayFromEndianUint16 (ord : ByteOrder) (s : State) : StepOutcome := arrayFromEndian .uint16 ord s

/-- ARRAY_FROM_ENDIAN `<order>, int32` (R211). -/
def execArrayFromEndianInt32 (ord : ByteOrder) (s : State) : StepOutcome := arrayFromEndian .int32 ord s

/-- ARRAY_FROM_ENDIAN `<order>, uint32` (R211). -/
def execArrayFromEndianUint32 (ord : ByteOrder) (s : State) : StepOutcome := arrayFromEndian .uint32 ord s

/-- ARRAY_FROM_ENDIAN `<order>, int64` (R211). -/
def execArrayFromEndianInt64 (ord : ByteOrder) (s : State) : StepOutcome := arrayFromEndian .int64 ord s

/-- ARRAY_FROM_ENDIAN `<order>, uint64` (R211). -/
def execArrayFromEndianUint64 (ord : ByteOrder) (s : State) : StepOutcome := arrayFromEndian .uint64 ord s

/-- ARRAY_FROM_ENDIAN `<order>, float32` (R211): bit exact, as for the integer kinds of its width (R212). -/
def execArrayFromEndianFloat32 (ord : ByteOrder) (s : State) : StepOutcome := arrayFromEndian .float32 ord s

/-- ARRAY_FROM_ENDIAN `<order>, float64` (R211): bit exact, as for the integer kinds of its width (R212). -/
def execArrayFromEndianFloat64 (ord : ByteOrder) (s : State) : StepOutcome := arrayFromEndian .float64 ord s

end Sys2Proof.Machine
end

