-- ==== Sys2Proof/Machine/Hex.lean ====
section
/-!
DEFINITION. The hex encoder and decoder (41_hex.md).
-/
namespace Sys2Proof.Machine

/-- The 4-bit field of a number that starts at bit `lo`: `v[lo+3:lo]` (R11). -/
def nibble (v lo : Nat) : Fin 16 :=
  ⟨(v >>> lo) % 16, Nat.mod_lt _ (by decide)⟩

/-- The two characters of a byte, most significant nibble first (R122). -/
def hexPair (b : Byte) : List TextUnit :=
  [hexDigits[nibble b.toNat 4], hexDigits[nibble b.toNat 0]]

/-- The text of a byte sequence (R124). -/
def hexText (b : List Byte) : List TextUnit :=
  b.flatMap hexPair

/-- The byte of two digit values (R123). -/
def hexByte (h l : Byte) : Byte :=
  BitVec.ofNat 8 ((h.toNat <<< 4) ||| l.toNat)

/-- The pairs of a text from index `off` on, stopping at the first bad pair (R125). A text of odd length never comes here:
R125 checks the length first, and the single-character arm answers as that check does. -/
def hexBytes (t : RevTable) : Nat → List TextUnit → Except CmdError (List Byte)
  | _, [] => .ok []
  | off, [_] => .error ⟨.badInput, off + 1, 0#3⟩
  | off, c0 :: c1 :: rest =>
    if lookup t c0 = sentinel ∨ lookup t c1 = sentinel then .error ⟨.badInput, off, 0#3⟩
    else
      match hexBytes t (off + 2) rest with
      | .ok bs => .ok (hexByte (lookup t c0) (lookup t c1) :: bs)
      | .error e => .error e

/-- ENC_HEX (R124). -/
def execEncHex (s : State) : StepOutcome :=
  guardIn s <|
    match acceptView s.inp with
    | none => .next (raiseError s ⟨.unsupportedType, 0, 0#3⟩)
    | some b => guardOut s (2 * b.length) (.next (complete s (.text (hexText b))))

/-- DEC_HEX (R125): acceptance, table build, length, then pairs. -/
def execDecHex (s : State) : StepOutcome :=
  guardIn s <|
    match acceptText s.inp with
    | none => .next (raiseError s ⟨.expectingString, 0, 0#3⟩)
    | some t =>
      let s := ensureBuilt .hex s
      if t.length % 2 = 1 then .next (raiseError s ⟨.badInput, t.length, 0#3⟩)
      else
        guardOut s (t.length / 2) <|
          match hexBytes s.hexTbl 0 t with
          | .error e => .next (raiseError s e)
          | .ok bs => .next (complete s (.view bs))

end Sys2Proof.Machine
end

