-- ==== Sys2Proof/Machine/Dispatch.lean ====
section
/-!
DEFINITION. One arm per command, each a direct call of the command's meaning (R74, R80).
-/
namespace Sys2Proof.Machine

def exec (i : Instr) (s : State) : Host.Outcome State Fault Refusal :=
  match i with
  | .encHex => Sys2Proof.Machine.execEncHex s
  | .decHex => Sys2Proof.Machine.execDecHex s
  | .encB64 => Sys2Proof.Machine.execEncB64 s
  | .decB64 => Sys2Proof.Machine.execDecB64 s
  | .encB64Url => Sys2Proof.Machine.execEncB64Url s
  | .decB64Url => Sys2Proof.Machine.execDecB64Url s
  | .hostIsBig => Sys2Proof.Machine.execHostIsBig s
  | .hostIsLittle => Sys2Proof.Machine.execHostIsLittle s
  | .hostEndianness => Sys2Proof.Machine.execHostEndianness s
  | .arrayToEndian ord => Sys2Proof.Machine.execArrayToEndian ord s
  | .arrayFromEndianInt8 ord => Sys2Proof.Machine.execArrayFromEndianInt8 ord s
  | .arrayFromEndianUint8 ord => Sys2Proof.Machine.execArrayFromEndianUint8 ord s
  | .arrayFromEndianInt16 ord => Sys2Proof.Machine.execArrayFromEndianInt16 ord s
  | .arrayFromEndianUint16 ord => Sys2Proof.Machine.execArrayFromEndianUint16 ord s
  | .arrayFromEndianInt32 ord => Sys2Proof.Machine.execArrayFromEndianInt32 ord s
  | .arrayFromEndianUint32 ord => Sys2Proof.Machine.execArrayFromEndianUint32 ord s
  | .arrayFromEndianInt64 ord => Sys2Proof.Machine.execArrayFromEndianInt64 ord s
  | .arrayFromEndianUint64 ord => Sys2Proof.Machine.execArrayFromEndianUint64 ord s
  | .arrayFromEndianFloat32 ord => Sys2Proof.Machine.execArrayFromEndianFloat32 ord s
  | .arrayFromEndianFloat64 ord => Sys2Proof.Machine.execArrayFromEndianFloat64 ord s
  | .testForceLittle => Sys2Proof.Machine.execTestForceLittle s
  | .testForceBig => Sys2Proof.Machine.execTestForceBig s

end Sys2Proof.Machine
end

