-- ==== Sys2Proof/Machine/HostPort.lean ====
section
/-!
DEFINITION. The host's side of the block: register reads and writes (R22), `SetIN`, `ReadOUT`, `MOVE_OUT_TO_IN` and
`Reset` (R270, R271, R290), and what an illegal command word does (R76).
-/
namespace Sys2Proof.Machine

/-- What a host read of a register offset returns; any other offset reads 0 (R22). -/
def registerRead (s : State) (offset : Nat) : Word :=
  match offset with
  | 0x00 => s.cmd
  | 0x04 => s.status
  | 0x08 => s.errOffset
  | 0x0C => inDesc s.inp
  | 0x10 => lengthWord 0x10 (inDesc s.inp) (inElems s.inp)
  | 0x14 => outDesc s.out
  | 0x18 => lengthWord 0x18 (outDesc s.out) (outElems s.out)
  | _ => 0#32

/-- `ReadReg` (R270): changes nothing and gives the host the register's value. -/
def hostReadReg (offset : Nat) (s : State) : StepOutcome :=
  .next { s with replies := s.replies ++ [.reg offset (registerRead s offset)] }

/-- A host write of a register other than CMD (R22): STATUS, ERR_OFFSET, OUT_DESC and OUT_LEN are read-only, any other
offset ignores writes (log 15); IN_DESC and IN_LEN are written together with the IN data, never alone (R24; log 14). -/
def hostWriteReg (offset : Nat) (s : State) : StepOutcome :=
  match offset with
  | 0x0C => .refused .inPortWrittenInPart
  | 0x10 => .refused .inPortWrittenInPart
  | _ => .next s

/-- `SetIN` (R24, R270): TAG, EK, IN_LEN and DATA in one action. -/
def hostSetIn (desc : Word) (d : List TextUnit) (s : State) : StepOutcome :=
  match operandOfDesc desc d with
  | some op => .next { s with inp := op }
  | none => .refused .setInCannotBeSent

/-- `ReadOUT` (R270): changes nothing and gives the host OUT; a fault while OUT is NONE (R27, R257). -/
def hostReadOut (s : State) : StepOutcome :=
  match s.out with
  | .none => .fault .readOutWhileNone
  | .view d => .next { s with replies := s.replies ++ [.out (.view d)] }
  | .text d => .next { s with replies := s.replies ++ [.out (.text d)] }
  | .numeric k d => .next { s with replies := s.replies ++ [.out (.numeric k d)] }
  | .bool b => .next { s with replies := s.replies ++ [.out (.bool b)] }
  | .order o => .next { s with replies := s.replies ++ [.out (.order o)] }

/-- `MOVE_OUT_TO_IN` (R271): a copy of OUT, re-tagged, with OUT's EK (log 25); a fault while OUT is NONE. -/
def hostMoveOutToIn (s : State) : StepOutcome :=
  match s.out with
  | .none => .fault .moveOutWhileNone
  | .view d => .next { s with inp := .view 0#4 d }
  | .text d => .next { s with inp := .text 0#4 d }
  | .numeric k d => .next { s with inp := .numeric k.code d }
  | .bool b => .next { s with inp := .view 0#4 [boolByte b] }
  | .order o => .next { s with inp := .view 0#4 [orderByte o] }

/-- `Reset` (R290): every piece of state takes its value of R35; the parameters, the host's pending actions and what the
host was given stay (log 20). -/
def hostReset (s : State) : StepOutcome :=
  .next { State.resetWith s.params with host := s.host, replies := s.replies }

/-- An illegal command word completes with IllegalCommand and changes nothing else (R76). -/
def illegalCommand (s : State) : StepOutcome :=
  .next (raiseError s ⟨.illegalCommand, 0, 0#3⟩)

/-! ## The host directives of R84 as host actions (the EK of all but `IN.ARRAY` is log 29) -/

/-- The IN_DESC word of a TAG and an EK (R24). -/
def descOf (tag ek : BitVec 4) : Word := 0#24 ++ ek ++ tag

/-- `IN.TEXT [u0, u1, ...]` (R84). DESIGN CHOICE: EK = 0 (log 29). -/
def inTextDirective (units : List TextUnit) : HostAction := .setIn (descOf 3#4 0#4) units

/-- `IN.RAW [b0, b1, ...]` (R84). DESIGN CHOICE: EK = 0 (log 29). -/
def inRawDirective (bytes : List Byte) : HostAction := .setIn (descOf 1#4 0#4) (bytes.map unitOfByte)

/-- `IN.VIEW [b0, b1, ...]` (R84). DESIGN CHOICE: EK = 0 (log 29). -/
def inViewDirective (bytes : List Byte) : HostAction := .setIn (descOf 2#4 0#4) (bytes.map unitOfByte)

/-- `IN.ARRAY <kind>, [b0, b1, ...]` (R84). -/
def inArrayDirective (kind : ElemKind) (bytes : List Byte) : HostAction :=
  .setIn (descOf 4#4 kind.code) (bytes.map unitOfByte)

/-- `IN.OTHER` (R84). DESIGN CHOICE: EK = 0 (log 29). -/
def inOtherDirective : HostAction := .setIn (descOf 0#4 0#4) []

end Sys2Proof.Machine
end

