-- ==== Sys2Proof/Machine/Engine.lean ====
section
/-!
DEFINITION. What each host action does (R270), the write of CMD with the command it starts among them (R23, R80).
-/
namespace Sys2Proof.Machine

/-- A write of CMD: the word is kept in CMD (R23), then decoded and performed (R80), or completed as illegal (R76). -/
def hostWriteCmd (w : Word) (s : State) : StepOutcome :=
  match decode s.params.testHooks w with
  | .ok i => exec i { s with cmd := w }
  | .error _ => illegalCommand { s with cmd := w }

/-- One host action (R270). A write of register offset 0x00 is the write of CMD (R22, R23). -/
def hostAct (a : HostAction) (s : State) : StepOutcome :=
  match a with
  | .setIn desc d => hostSetIn desc d s
  | .writeCmd w => hostWriteCmd w s
  | .writeReg 0 v => hostWriteCmd v s
  | .writeReg (n + 1) _ => hostWriteReg (n + 1) s
  | .readReg offset => hostReadReg offset s
  | .readOut => hostReadOut s
  | .moveOutToIn => hostMoveOutToIn s
  | .reset => hostReset s

/-- The host's next action becomes the write of a command word of `nbits` bits to CMD. -/
def nextActionWritesCmd (s : State) (nbits w : Nat) : State :=
  { s with host := .writeCmd (BitVec.ofNat 32 (w % 2 ^ nbits)) :: s.host }

end Sys2Proof.Machine
end

