-- ==== Sys2Proof/Machine/Step.lean ====
section
/-!
DEFINITION. One step of TEC: the next pending host action, and with a CMD write the command it starts (R60, R61, R270).
TEC fetches no instructions (R21): a program comes to run because the host writes its words to CMD (log 4).
-/
namespace Sys2Proof.Machine

/-- The next host action is taken from the head of `host` and performed; with none pending TEC stays as it is: nothing but
a host action changes it (R274; log 4). -/
def step (s : State) : Host.Outcome State Fault Refusal :=
  match s.host with
  | [] => .next s
  | a :: rest => hostAct a { s with host := rest }

/-- The host's very next action writes this word to CMD, so that the next step performs it (log 4). -/
def State.withFetchWord (s : State) (nbits w : Nat) : State :=
  nextActionWritesCmd s nbits w

end Sys2Proof.Machine
end

