-- ==== Sys2Proof/Safety.lean ====
section
/-!
DEFINITION. The terms claims are made in: the invariant of every state a run reaches, the premise about overrides (R301),
and a safe step.
-/
namespace Sys2Proof.Machine

/-- The HOST_FLAG value for a byte order (R200). -/
def flagOfOrder : ByteOrder → HostFlag
  | .little => .little
  | .big => .big

/-- The premise of R301: HOST_FLAG is UNSET or equals `HOST_BYTE_ORDER`. -/
def State.NoOverride (s : State) : Prop :=
  s.hostFlag = .unset ∨ s.hostFlag = flagOfOrder s.params.hostByteOrder

/-- What holds of every state a run reaches: at reset, and after every step. -/
structure State.Inv (s : State) : Prop where
  /-- A valid table holds what its build writes (R32, R153). -/
  hexBuilt : s.hexValid = true → s.hexTbl = builtTable .hex
  stdBuilt : s.b64StdValid = true → s.b64StdTbl = builtTable .std
  urlBuilt : s.b64UrlValid = true → s.b64UrlTbl = builtTable .url
  /-- Reserved STATUS bits read 0 (R28). -/
  statusReserved : s.status.extractLsb 7 5 = 0#3 ∧ s.status.extractLsb 31 11 = 0#21
  /-- Legal ERR values are 0 to 8 (R28). -/
  errLegal : statusErr s.status ≤ 8#4
  /-- RUN is 2, 3 or 4 for UnsupportedCharacter, else 0 (R28). -/
  runLegal : if statusErr s.status = 5#4 then statusRun s.status ∈ [2#3, 3#3, 4#3] else statusRun s.status = 0#3
  /-- Before the first command STATUS is 0 and OUT is NONE (R27, R28, R35). -/
  beforeCommands : statusValid s.status = 0#1 → s.status = 0#32 ∧ s.out = .none
  /-- After an error OUT holds no value (R27, R252). -/
  noOutOnError : statusErr s.status ≠ 0#4 → s.out = .none
  /-- After a success ERR_OFFSET is 0 (R29). -/
  noOffsetOnSuccess : statusErr s.status = 0#4 → s.errOffset = 0#32
  /-- A NUMERIC result has a kind that ARRAY_FROM_ENDIAN takes, and whole elements (R73, R211). -/
  outWholeElements : ∀ k d, s.out = .numeric k d → k ≠ .uint8clamped ∧ d.length % elemWidth k = 0
  /-- A TEXT result is ASCII (R121, R150). -/
  outTextAscii : ∀ d, s.out = .text d → ∀ u ∈ d, u < 128#16

/-- A step that ends neither in a model fault nor in a refusal (R257). -/
def State.SafeStep (s : State) : Prop :=
  ∃ t, step s = .next t

end Sys2Proof.Machine
end

