-- ==== Sys2Proof/Certificates/Slice0/Obligations.lean ====
section
/-!
DEFINITION. The statements for the provers, and the terms of the spec they are made in.
The terms under `Claims` are written from the spec's rules by arithmetic on lists and numbers, not with the functions the
meanings use, so that a statement about a command compares the two. The exceptions are `builtTable`, whose entries
`Obligations.BuiltTablesHoldTheirEntries` states, and the plain projections of the operands.
-/
namespace Sys2Proof.Claims
open Sys2Proof.Machine

/-! ## Length bound and completion -/

/-- A length within `MAX_LEN` (R68). -/
def Within (s : State) (n : Nat) : Prop :=
  ∀ m, s.params.maxLen = some m → n ≤ m

/-- A command ends in success with this result, from a state that already has its side effects (R82). -/
def EndsWith (o : StepOutcome) (s : State) (r : OutResult) : Prop :=
  o = .next { s with out := r, status := 0x00000010#32, errOffset := 0#32 }

/-- A command ends in an error, from a state that already has its side effects (R252): OUT NONE, STATUS with VALID, the
code and RUN (R28), ERR_OFFSET the index where 32 bits hold it (R29; beyond that a free value, log 8). -/
def EndsInError (o : StepOutcome) (s : State) (code run off : Nat) : Prop :=
  ∃ w : Word, o = .next { s with out := .none, status := BitVec.ofNat 32 (16 + code + 256 * run), errOffset := w } ∧
    (off < 2 ^ 32 → w = BitVec.ofNat 32 off)

/-! ## Operands -/

/-- The width of an element kind code, for codes 0 to 10 (R103). -/
def widthOfCode (ek : Nat) : Nat :=
  if ek ≤ 2 then 1 else if ek ≤ 4 then 2 else if ek = 5 ∨ ek = 6 ∨ ek = 9 then 4 else 8

/-- IN is a well-formed NUMERIC operand with this kind code and these bytes (R104). -/
def IsNumeric (i : InOperand) (ek : BitVec 4) (b : List Byte) : Prop :=
  i = .numeric ek b ∧ ek.toNat ≤ 10 ∧ b.length % widthOfCode ek.toNat = 0

/-- IN is accepted as a Buffer View of these bytes (R100). -/
def IsBuffer (i : InOperand) (b : List Byte) : Prop :=
  (∃ ek, i = .raw ek b) ∨ (∃ ek, i = .view ek b) ∨ ∃ ek, IsNumeric i ek b

/-- IN is accepted as a string of these code units (R105). -/
def IsText (i : InOperand) (t : List TextUnit) : Prop :=
  ∃ ek, i = .text ek t

/-! ## Hex -/

/-- The character of a digit value, upper case (R121). -/
def hexChar (d : Nat) : TextUnit :=
  BitVec.ofNat 16 (if d ≤ 9 then 0x30 + d else 0x41 + (d - 10))

/-- The digit value of a code unit, where it is a hex digit (R120). -/
def hexValue (u : TextUnit) : Option Nat :=
  if 0x30 ≤ u.toNat ∧ u.toNat ≤ 0x39 then some (u.toNat - 0x30)
  else if 0x41 ≤ u.toNat ∧ u.toNat ≤ 0x46 then some (u.toNat - 0x41 + 10)
  else if 0x61 ≤ u.toNat ∧ u.toNat ≤ 0x66 then some (u.toNat - 0x61 + 10)
  else none

/-- The state with HEX_TBL built and valid (R153). -/
def hexBuilt (s : State) : State :=
  { s with hexTbl := builtTable .hex, hexValid := true }

/-! ## Base64 -/

/-- The character of a 6-bit value (R150). -/
def b64Char (v : Variant) (i : Nat) : TextUnit :=
  BitVec.ofNat 16
    (if i < 26 then 0x41 + i
     else if i < 52 then 0x61 + (i - 26)
     else if i < 62 then 0x30 + (i - 52)
     else match v with
       | .std => if i = 62 then 0x2B else 0x2F
       | .url => if i = 62 then 0x2D else 0x5F)

/-- The 6-bit value of a code unit, where it is a character of the alphabet (R150, R152). -/
def b64Value (v : Variant) (u : TextUnit) : Option Nat :=
  (List.range 64).find? fun i => u = b64Char v i

/-- Byte `k` of a sequence as a number, 0 past its end: the zero fill of a tail (R157). -/
def byteAt (b : List Byte) (k : Nat) : Nat :=
  (b.getD k 0#8).toNat

/-- The 24-bit word of group `g` of a byte sequence, a tail filled with zero bits (R156, R157). -/
def byteGroup (b : List Byte) (g : Nat) : Nat :=
  byteAt b (3 * g) * 65536 + byteAt b (3 * g + 1) * 256 + byteAt b (3 * g + 2)

/-- The characters a byte sequence encodes to, without padding: character `j` is 6-bit field `j mod 4` of group `j div 4`,
most significant first (R156, R157). -/
def b64Chars (v : Variant) (b : List Byte) : List TextUnit :=
  (List.range ((4 * b.length + 2) / 3)).map fun j => b64Char v (byteGroup b (j / 4) / 64 ^ (3 - j % 4) % 64)

/-- The padding of an `n`-byte input: up to a multiple of 4 for STD, none for URL (R151, R157). -/
def b64Padding (v : Variant) (n : Nat) : List TextUnit :=
  match v with
  | .std => List.replicate ((3 - n % 3) % 3) 0x3D#16
  | .url => []

/-- The 24-bit word of group `g` of a sequence of 6-bit values, a tail filled with zero bits (R158, R159). -/
def sextetGroup (vs : List Nat) (g : Nat) : Nat :=
  vs.getD (4 * g) 0 * 262144 + vs.getD (4 * g + 1) 0 * 4096 + vs.getD (4 * g + 2) 0 * 64 + vs.getD (4 * g + 3) 0

/-- The bytes that 6-bit values decode to: `floor(L*3/4)` of them (R155), byte `j` being field `j mod 3` of group `j div 3`
(R158, R159). -/
def b64Decoded (vs : List Nat) : List Byte :=
  (List.range (vs.length * 3 / 4)).map fun j => BitVec.ofNat 8 (sextetGroup vs (j / 3) / 256 ^ (2 - j % 3) % 256)

/-- The fill bits of a tail are all 0: the low 4 bits of the last of 2 values, the low 2 bits of the last of 3 (R159). -/
def FillBitsZero (vs : List Nat) : Prop :=
  (vs.length % 4 = 2 → vs.getD (vs.length - 1) 0 % 16 = 0) ∧ (vs.length % 4 = 3 → vs.getD (vs.length - 1) 0 % 4 = 0)

/-- `u` is `t` with all its trailing `=` removed (R173). -/
def IsStripped (t u : List TextUnit) : Prop :=
  (∃ k, t = u ++ List.replicate k 0x3D#16) ∧ u.getLast? ≠ some 0x3D#16

/-- Index `p` holds the first unit that `value` gives no value. -/
def FirstBadAt (value : TextUnit → Option Nat) (t : List TextUnit) (p : Nat) : Prop :=
  (∃ c, t[p]? = some c ∧ value c = none) ∧ ∀ c ∈ t.take p, value c ≠ none

/-- The state with a variant's reverse table built and valid (R151, R153). -/
def b64Built (v : Variant) (s : State) : State :=
  match v with
  | .std => { s with b64StdTbl := builtTable .std, b64StdValid := true }
  | .url => { s with b64UrlTbl := builtTable .url, b64UrlValid := true }

/-- What an encode command does, in every state (R162 with R160 or R161). -/
def EncodesBase64 (v : Variant) (i : Instr) : Prop :=
  ∀ s : State,
    (∀ b, IsBuffer s.inp b → Within s b.length → Within s (b64Chars v b ++ b64Padding v b.length).length →
      EndsWith (exec i s) s (.text (b64Chars v b ++ b64Padding v b.length))) ∧
    ((∀ b, ¬ IsBuffer s.inp b) → Within s (inLength s.inp) → EndsInError (exec i s) s 1 0 0)

/-- What a decode command does, in every state that a run can reach (R172 with R170 or R171; precedence R174). -/
def DecodesBase64 (v : Variant) (i : Instr) : Prop :=
  ∀ s : State, s.Inv →
    ((∀ t, ¬ IsText s.inp t) → Within s (inLength s.inp) → EndsInError (exec i s) s 3 0 0) ∧
    ∀ t u, IsText s.inp t → Within s t.length → IsStripped t u →
      (u.length % 4 = 1 → EndsInError (exec i s) (b64Built v s) 4 0 u.length) ∧
      (u.length % 4 ≠ 1 →
        (∀ p, FirstBadAt (b64Value v) u p →
          EndsInError (exec i s) (b64Built v s) 5 (if p / 4 < u.length / 4 then 4 else u.length % 4) (4 * (p / 4))) ∧
        (∀ vs : List Nat, u.map (b64Value v) = vs.map some →
          (¬ FillBitsZero vs → EndsInError (exec i s) (b64Built v s) 6 0 (u.length - 1)) ∧
          (FillBitsZero vs → EndsWith (exec i s) (b64Built v s) (.view (b64Decoded vs)))))

/-! ## Endianness -/

/-- The byte order that HOST_FLAG names, or that detection will find while it is UNSET (R200, R203). -/
def orderSeen (s : State) : ByteOrder :=
  match s.hostFlag with
  | .unset => s.params.hostByteOrder
  | .little => .little
  | .big => .big

/-- The state after `detect()` (R200). -/
def detected (s : State) : State :=
  match s.hostFlag, s.params.hostByteOrder with
  | .unset, .little => { s with hostScratch := #v[1#8, 0#8], hostFlag := .little }
  | .unset, .big => { s with hostScratch := #v[0#8, 1#8], hostFlag := .big }
  | .little, _ => s
  | .big, _ => s

/-- The other byte order. -/
def opposite : ByteOrder → ByteOrder
  | .little => .big
  | .big => .little

/-- A byte sequence with the bytes of each `w`-byte element reversed: byte `i` of the result is byte `w-1-(i mod w)` of the
same element (R208). -/
def elementsReversed (w : Nat) (b : List Byte) : List Byte :=
  (List.range b.length).map fun i => b.getD (i / w * w + (w - 1 - i % w)) 0#8

/-- The reordering of R208: unchanged when the requested order is the one HOST_FLAG names, else reversed per element. -/
def reordered (s : State) (ord : ByteOrder) (w : Nat) (b : List Byte) : List Byte :=
  if ord = orderSeen s then b else elementsReversed w b

/-- The `w` bytes of a value in a byte order: least significant first for little (R54). -/
def elementBytes (o : ByteOrder) (w v : Nat) : List Byte :=
  match o with
  | .little => (List.range w).map fun i => BitVec.ofNat 8 (v / 256 ^ i)
  | .big => ((List.range w).map fun i => BitVec.ofNat 8 (v / 256 ^ i)).reverse

/-- The ARRAY_FROM_ENDIAN command of each legal kind (R73). -/
def fromEndianCommand (k : ElemKind) (ord : ByteOrder) : Option Instr :=
  match k with
  | .int8 => some (.arrayFromEndianInt8 ord)
  | .uint8 => some (.arrayFromEndianUint8 ord)
  | .uint8clamped => none
  | .int16 => some (.arrayFromEndianInt16 ord)
  | .uint16 => some (.arrayFromEndianUint16 ord)
  | .int32 => some (.arrayFromEndianInt32 ord)
  | .uint32 => some (.arrayFromEndianUint32 ord)
  | .int64 => some (.arrayFromEndianInt64 ord)
  | .uint64 => some (.arrayFromEndianUint64 ord)
  | .float32 => some (.arrayFromEndianFloat32 ord)
  | .float64 => some (.arrayFromEndianFloat64 ord)

/-- The width of a kind (R103), by its code. -/
def widthOf (k : ElemKind) : Nat :=
  widthOfCode k.code.toNat

/-! ## Command words and observations -/

/-- The numbers of the legal command words, as R75 lists them. -/
def LegalWord (n : Nat) : Prop :=
  (1 ≤ n ∧ n ≤ 9) ∨ n = 0x0C ∨ n = 0x0D ∨ n = 0x0A ∨ n = 0x10A ∨
    ∃ ord kind, ord ≤ 1 ∧ (kind ≤ 1 ∨ (3 ≤ kind ∧ kind ≤ 10)) ∧ n = 0x0B + ord * 256 + kind * 512

/-- What makes a word illegal, field by field, as R76 lists it. -/
def IllegalFields (hooks : TestHooks) (n : Nat) : Prop :=
  let op := n % 256
  let ord := n / 256 % 2
  let kind := n / 512 % 16
  let rsv := n / 8192
  op = 0 ∨ 0x0D < op ∨ rsv ≠ 0 ∨ (op ≠ 0x0A ∧ op ≠ 0x0B ∧ ord ≠ 0) ∨ (op ≠ 0x0B ∧ kind ≠ 0) ∨
    (op = 0x0B ∧ (kind = 2 ∨ 10 < kind)) ∨ ((op = 0x0C ∨ op = 0x0D) ∧ hooks = .absent)

/-- The EK code of a kind, written out from R103. -/
def kindNumber : ElemKind → Nat
  | .int8 => 0
  | .uint8 => 1
  | .uint8clamped => 2
  | .int16 => 3
  | .uint16 => 4
  | .int32 => 5
  | .uint32 => 6
  | .int64 => 7
  | .uint64 => 8
  | .float32 => 9
  | .float64 => 10

/-- IN_DESC of an operand as a number: the TAG code of R25, with EK in bits 7:4 (R24). -/
def inDescNumber : InOperand → Nat
  | .other .other ek _ => 0 + 16 * ek.toNat
  | .other (.reserved n) ek _ => 5 + n.val + 16 * ek.toNat
  | .raw ek _ => 1 + 16 * ek.toNat
  | .view ek _ => 2 + 16 * ek.toNat
  | .text ek _ => 3 + 16 * ek.toNat
  | .numeric ek _ => 4 + 16 * ek.toNat

/-- OUT_DESC of a result as a number: the TAG code of R26, with the kind's code in bits 7:4 under NUMERIC and 0 otherwise. -/
def outDescNumber : OutResult → Nat
  | .none => 0
  | .view _ => 2
  | .text _ => 3
  | .numeric k _ => 4 + 16 * kindNumber k
  | .bool _ => 5
  | .order _ => 6

/-- The number of elements of IN (R24). -/
def inLengthNumber : InOperand → Nat
  | .other _ _ d => d.length
  | .raw _ d => d.length
  | .view _ d => d.length
  | .text _ d => d.length
  | .numeric _ d => d.length

/-- The number of elements of OUT: none for NONE, the one byte of BOOL and ORDER (R26). -/
def outLengthNumber : OutResult → Nat
  | .none => 0
  | .view d => d.length
  | .text d => d.length
  | .numeric _ d => d.length
  | .bool _ => 1
  | .order _ => 1

/-- 16-bit elements that are these bytes. -/
def AreBytes (d : List TextUnit) (b : List Byte) : Prop :=
  d = b.map fun x => BitVec.ofNat 16 x.toNat

/-- The operand that a TAG code, an EK and data elements make, code by code (R24, R25). -/
def MakesOperand (tag : Nat) (ek : BitVec 4) (d : List TextUnit) (op : InOperand) : Prop :=
  (tag = 0 → op = .other .other ek d) ∧
  (tag = 1 → ∃ b, AreBytes d b ∧ op = .raw ek b) ∧
  (tag = 2 → ∃ b, AreBytes d b ∧ op = .view ek b) ∧
  (tag = 3 → op = .text ek d) ∧
  (tag = 4 → ∃ b, AreBytes d b ∧ op = .numeric ek b) ∧
  (∀ n : Fin 11, tag = 5 + n.val → op = .other (.reserved n) ek d)

/-- What a host can learn of a command by reading registers and OUT. -/
def observed (o : StepOutcome) : Option (Word × InOperand × OutResult × Word × Word) :=
  (nextState? o).map fun t => (t.cmd, t.inp, t.out, t.status, t.errOffset)

end Sys2Proof.Claims

open Sys2Proof Sys2Proof.Machine Sys2Proof.Claims

/-! ## Encoding -/

/-- Command words written out from R71 and R74 decode to their commands. -/
def Obligations.WrittenOutWordsDecode : Prop :=
  decodeTableWord 32 0x00000001 = some .encHex ∧ decodeTableWord 32 0x00000004 = some .decB64 ∧
  decodeTableWord 32 0x00000005 = some .encB64Url ∧ decodeTableWord 32 0x00000009 = some .hostEndianness ∧
  decodeTableWord 32 0x0000010A = some (.arrayToEndian .big) ∧
  decodeTableWord 32 0x0000080B = some (.arrayFromEndianUint16 .little) ∧
  decodeTableWord 32 0x0000150B = some (.arrayFromEndianFloat64 .big) ∧
  decodeTableWord 32 0x0000000D = some .testForceBig ∧ decodeTableWord 32 0x0000040B = none ∧
  decodeTableWord 32 0x00002001 = none

/-- R75: the legal words are exactly the ones it lists (`TEST_HOOKS = present`, the value for this hardware). -/
def Obligations.LegalWordsAreExactlyTheListed : Prop :=
  ∀ w : Word, (∃ i, decode .present w = .ok i) ↔ LegalWord w.toNat

/-- Decoding and encoding agree in both directions, for every command, every word and either setting of the test hooks. -/
def Obligations.DecodeAndEncodeAgree : Prop :=
  ∀ (hooks : TestHooks) (w : Word) (i : Instr),
    decode hooks w = .ok i ↔ i.wellFormed hooks = true ∧ encode i = w

/-- R23, R80: a step whose host action writes a legal word to CMD is the decoded command, run on the state that keeps the
word in CMD and has taken the action from the host's list. -/
def Obligations.StepRunsTheDecodedCommand : Prop :=
  ∀ (s : State) (w : Word) (rest : List HostAction) (i : Instr), s.host = .writeCmd w :: rest →
    decode s.params.testHooks w = .ok i → step s = exec i { s with host := rest, cmd := w }

/-- R76: a word that is illegal by any of its conditions completes with IllegalCommand and changes no other state. -/
def Obligations.IllegalWordOnlyRaisesIllegalCommand : Prop :=
  ∀ (s : State) (w : Word) (rest : List HostAction), s.host = .writeCmd w :: rest →
    IllegalFields s.params.testHooks w.toNat → EndsInError (step s) { s with host := rest, cmd := w } 8 0 0

/-! ## Reset and the invariant -/

/-- R35: the values the spec gives for reset. -/
def Obligations.ResetLeavesTheStatedValues : Prop :=
  State.reset.cmd = 0#32 ∧ State.reset.inp = .other .other 0#4 [] ∧ State.reset.out = .none ∧
  State.reset.status = 0#32 ∧ State.reset.errOffset = 0#32 ∧ State.reset.hostFlag = .unset ∧
  State.reset.hexValid = false ∧ State.reset.b64StdValid = false ∧ State.reset.b64UrlValid = false

/-- The invariant holds at reset. -/
def Obligations.ResetStateMeetsTheInvariant : Prop :=
  State.reset.Inv

/-- Every step from a state that meets the invariant leads to one that meets it: built tables keep their contents, STATUS
keeps its reserved bits and legal codes, OUT is NONE after an error and holds whole elements or ASCII text otherwise. -/
def Obligations.EveryStepKeepsTheInvariant : Prop :=
  ∀ s t : State, s.Inv → step s = .next t → t.Inv

/-! ## Every command -/

/-- R81: with `MAX_LEN` unbounded every command completes, in every state; and no command ends in a model fault. -/
def Obligations.EveryCommandCompletes : Prop :=
  ∀ (i : Instr) (s : State), (s.params.maxLen = none → ∃ t, exec i s = .next t) ∧ ∀ f, exec i s ≠ .fault f

/-- R68: a legal command is refused exactly when IN_LEN, or the output length it fixes, is beyond `MAX_LEN`. Only the
encoders and the host queries fix an output length that can be beyond it when IN_LEN is not. -/
def Obligations.CommandRefusedExactlyBeyondMaxLen : Prop :=
  ∀ (i : Instr) (s : State), i.wellFormed s.params.testHooks = true →
    ((∃ r, exec i s = .refused r) ↔
      ¬ Within s (inLength s.inp) ∨
      (i = .encHex ∧ ∃ b, IsBuffer s.inp b ∧ ¬ Within s (2 * b.length)) ∨
      (i = .encB64 ∧ ∃ b, IsBuffer s.inp b ∧ ¬ Within s (4 * ((b.length + 2) / 3))) ∨
      (i = .encB64Url ∧ ∃ b, IsBuffer s.inp b ∧ ¬ Within s ((4 * b.length + 2) / 3)) ∨
      (i ∈ [.hostIsBig, .hostIsLittle, .hostEndianness] ∧ ¬ Within s 1))

/-- R36: no command changes CMD or IN; a table and its flag change only by a build, HOST_FLAG and HOST_SCRATCH only by
detection or an override. The parameters, the host's list and its replies are the model's own and stay too. -/
def Obligations.CommandsChangeOnlyResultsAndSideEffects : Prop :=
  ∀ (i : Instr) (s t : State), exec i s = .next t →
    t.cmd = s.cmd ∧ t.inp = s.inp ∧ t.params = s.params ∧ t.host = s.host ∧ t.replies = s.replies ∧
    (t.hexTbl = s.hexTbl ∧ t.hexValid = s.hexValid ∨
      s.hexValid = false ∧ t.hexTbl = builtTable .hex ∧ t.hexValid = true) ∧
    (t.b64StdTbl = s.b64StdTbl ∧ t.b64StdValid = s.b64StdValid ∨
      s.b64StdValid = false ∧ t.b64StdTbl = builtTable .std ∧ t.b64StdValid = true) ∧
    (t.b64UrlTbl = s.b64UrlTbl ∧ t.b64UrlValid = s.b64UrlValid ∨
      s.b64UrlValid = false ∧ t.b64UrlTbl = builtTable .url ∧ t.b64UrlValid = true) ∧
    (t.hostFlag = s.hostFlag ∧ t.hostScratch = s.hostScratch ∨
      t.hostFlag = (detected s).hostFlag ∧ t.hostScratch = (detected s).hostScratch ∨
      t.hostScratch = s.hostScratch ∧ s.params.testHooks = .present ∧
        (i = .testForceLittle ∧ t.hostFlag = .little ∨ i = .testForceBig ∧ t.hostFlag = .big))

/-- Every command writes STATUS, ERR_OFFSET and OUT at its end: VALID is 1, reserved bits are 0; on success ERR_OFFSET and
RUN are 0; on an error, one of the eight, OUT is NONE. -/
def Obligations.EveryCompletionIsConsistent : Prop :=
  ∀ (i : Instr) (s t : State), exec i s = .next t →
    statusValid t.status = 1#1 ∧ t.status.extractLsb 7 5 = 0#3 ∧ t.status.extractLsb 31 11 = 0#21 ∧
    (statusErr t.status).toNat ≤ 8 ∧
    (statusErr t.status = 0#4 → t.errOffset = 0#32 ∧ statusRun t.status = 0#3) ∧
    (statusErr t.status ≠ 0#4 → t.out = .none) ∧
    (statusRun t.status ≠ 0#3 → statusErr t.status = 5#4)

/-! ## Hex -/

/-- R124: ENC_HEX writes two upper-case digits for each byte of a buffer, most significant nibble first; anything else is
UnsupportedType. -/
def Obligations.EncHexFollowsItsRule : Prop :=
  (∀ hooks, decode hooks 0x00000001#32 = .ok .encHex) ∧ ∀ s : State,
    (∀ b, IsBuffer s.inp b → Within s (2 * b.length) →
      EndsWith (exec .encHex s) s (.text (b.flatMap fun x => [hexChar (x.toNat / 16), hexChar (x.toNat % 16)]))) ∧
    ((∀ b, ¬ IsBuffer s.inp b) → Within s (inLength s.inp) → EndsInError (exec .encHex s) s 1 0 0)

/-- R125: DEC_HEX. A non-text operand is ExpectingString; an odd length is BadInput at the length, before any character;
the first unit that is no hex digit makes its pair BadInput; otherwise each pair gives one byte. HEX_TBL is built whenever
the operand is text, in error too. -/
def Obligations.DecHexFollowsItsRule : Prop :=
  (∀ hooks, decode hooks 0x00000002#32 = .ok .decHex) ∧ ∀ s : State, s.Inv →
    ((∀ t, ¬ IsText s.inp t) → Within s (inLength s.inp) → EndsInError (exec .decHex s) s 3 0 0) ∧
    ∀ t, IsText s.inp t → Within s t.length →
      (t.length % 2 = 1 → EndsInError (exec .decHex s) (hexBuilt s) 2 0 t.length) ∧
      (t.length % 2 = 0 →
        (∀ p, FirstBadAt hexValue t p → EndsInError (exec .decHex s) (hexBuilt s) 2 0 (2 * (p / 2))) ∧
        (∀ vs : List Nat, t.map hexValue = vs.map some →
          EndsWith (exec .decHex s) (hexBuilt s)
            (.view ((List.range (t.length / 2)).map fun j =>
              BitVec.ofNat 8 (vs.getD (2 * j) 0 * 16 + vs.getD (2 * j + 1) 0)))))

/-- R127: DEC_HEX of the text that ENC_HEX gives for a byte sequence succeeds with that byte sequence. -/
def Obligations.HexRoundTrip : Prop :=
  ∀ (s t s' : State) (b : List Byte) (u : List TextUnit), IsBuffer s.inp b → exec .encHex s = .next t →
    t.out = .text u → s'.Inv → IsText s'.inp u → Within s' u.length →
    EndsWith (exec .decHex s') (hexBuilt s') (.view b)

/-! ## Tables -/

/-- R120 and R152, entry by entry: a built table holds the value of every code unit that has one, and 255 elsewhere. -/
def Obligations.BuiltTablesHoldTheirEntries : Prop :=
  ∀ (u : Nat) (h : u < 256),
    (builtTable .hex)[u] = BitVec.ofNat 8 ((hexValue (BitVec.ofNat 16 u)).getD 255) ∧
    (builtTable .std)[u] = BitVec.ofNat 8 ((b64Value .std (BitVec.ofNat 16 u)).getD 255) ∧
    (builtTable .url)[u] = BitVec.ofNat 8 ((b64Value .url (BitVec.ofNat 16 u)).getD 255)

/-- R121 and R150, entry by entry. -/
def Obligations.ConstantTablesHoldTheirEntries : Prop :=
  (∀ d : Fin 16, hexDigits[d] = hexChar d.val) ∧
  ∀ i : Fin 64, alphaStd[i] = b64Char .std i.val ∧ alphaUrl[i] = b64Char .url i.val

/-- R153 with R107: a decode command that accepts its text leaves its own table valid, in error too; it builds the table
when it was not valid and leaves its contents alone when it was, whatever they are. One that does not accept its operand
changes no table. -/
def Obligations.DecodersBuildTheirTableOnce : Prop :=
  ∀ s t : State,
    (exec .decHex s = .next t →
      (∀ x, IsText s.inp x → t.hexValid = true ∧ t.hexTbl = if s.hexValid then s.hexTbl else builtTable .hex) ∧
      ((∀ x, ¬ IsText s.inp x) → t.hexValid = s.hexValid ∧ t.hexTbl = s.hexTbl)) ∧
    (exec .decB64 s = .next t →
      (∀ x, IsText s.inp x →
        t.b64StdValid = true ∧ t.b64StdTbl = if s.b64StdValid then s.b64StdTbl else builtTable .std) ∧
      ((∀ x, ¬ IsText s.inp x) → t.b64StdValid = s.b64StdValid ∧ t.b64StdTbl = s.b64StdTbl)) ∧
    (exec .decB64Url s = .next t →
      (∀ x, IsText s.inp x →
        t.b64UrlValid = true ∧ t.b64UrlTbl = if s.b64UrlValid then s.b64UrlTbl else builtTable .url) ∧
      ((∀ x, ¬ IsText s.inp x) → t.b64UrlValid = s.b64UrlValid ∧ t.b64UrlTbl = s.b64UrlTbl))

/-- No command but DEC_HEX changes HEX_TBL or HEX_VALID, none but DEC_B64 those of the standard alphabet, none but
DEC_B64URL those of the URL-safe one. -/
def Obligations.TablesBelongToTheirDecoder : Prop :=
  ∀ (i : Instr) (s t : State), exec i s = .next t →
    (i ≠ .decHex → t.hexTbl = s.hexTbl ∧ t.hexValid = s.hexValid) ∧
    (i ≠ .decB64 → t.b64StdTbl = s.b64StdTbl ∧ t.b64StdValid = s.b64StdValid) ∧
    (i ≠ .decB64Url → t.b64UrlTbl = s.b64UrlTbl ∧ t.b64UrlValid = s.b64UrlValid)

/-! ## Base64 -/

/-- R160: ENC_B64. -/
def Obligations.EncB64FollowsItsRule : Prop :=
  (∀ hooks, decode hooks 0x00000003#32 = .ok .encB64) ∧ EncodesBase64 .std .encB64

/-- R161: ENC_B64URL. -/
def Obligations.EncB64UrlFollowsItsRule : Prop :=
  (∀ hooks, decode hooks 0x00000005#32 = .ok .encB64Url) ∧ EncodesBase64 .url .encB64Url

/-- R170: DEC_B64. -/
def Obligations.DecB64FollowsItsRule : Prop :=
  (∀ hooks, decode hooks 0x00000004#32 = .ok .decB64) ∧ DecodesBase64 .std .decB64

/-- R171: DEC_B64URL. -/
def Obligations.DecB64UrlFollowsItsRule : Prop :=
  (∀ hooks, decode hooks 0x00000006#32 = .ok .decB64Url) ∧ DecodesBase64 .url .decB64Url

/-- R154: the length of the text an encoder writes. -/
def Obligations.EncodedLengthIsFixedByInputLength : Prop :=
  ∀ (s t : State) (b : List Byte) (u : List TextUnit), IsBuffer s.inp b → t.out = .text u →
    (exec .encB64 s = .next t → u.length = 4 * ((b.length + 2) / 3)) ∧
    (exec .encB64Url s = .next t →
      u.length + (if b.length % 3 = 1 then 2 else if b.length % 3 = 2 then 1 else 0) = 4 * ((b.length + 2) / 3))

/-- R175: for each variant, decoding the text that encoding a byte sequence gives succeeds with that byte sequence. -/
def Obligations.Base64RoundTrip : Prop :=
  ∀ (s t s' : State) (b : List Byte) (u : List TextUnit), IsBuffer s.inp b → t.out = .text u → s'.Inv →
    IsText s'.inp u → Within s' u.length →
    (exec .encB64 s = .next t → EndsWith (exec .decB64 s') (b64Built .std s') (.view b)) ∧
    (exec .encB64Url s = .next t → EndsWith (exec .decB64Url s') (b64Built .url s') (.view b))

/-- R176 with R173: texts that differ only in the number of trailing `=` decode alike: the same OUT and STATUS, and the
same ERR_OFFSET where 32 bits hold the length. -/
def Obligations.TrailingPaddingIsIgnored : Prop :=
  ∀ (i : Instr) (s t t' : State) (ek : BitVec 4) (x : List TextUnit) (k : Nat), i = .decB64 ∨ i = .decB64Url →
    exec i { s with inp := .text ek x } = .next t →
    exec i { s with inp := .text ek (x ++ List.replicate k 0x3D#16) } = .next t' →
    t'.out = t.out ∧ t'.status = t.status ∧ (x.length < 2 ^ 32 → t'.errOffset = t.errOffset)

/-- Of an accepted text, encoding the decoded bytes gives the text without its trailing `=`, with the variant's own padding
in their place, whenever that output is within `MAX_LEN`: the fill bits of an accepted text are zero. -/
def Obligations.AcceptedTextReencodesToItself : Prop :=
  ∀ (s t s' : State) (b : List Byte) (x u : List TextUnit), s.Inv → IsText s.inp x → IsStripped x u →
    t.out = .view b → IsBuffer s'.inp b →
    (exec .decB64 s = .next t → Within s' (u ++ b64Padding .std b.length).length →
      EndsWith (exec .encB64 s') s' (.text (u ++ b64Padding .std b.length))) ∧
    (exec .decB64Url s = .next t → Within s' u.length → EndsWith (exec .encB64Url s') s' (.text u))

/-! ## Endianness -/

/-- R201, R202, R204 with R200: the host queries detect and report the byte order HOST_FLAG then names. -/
def Obligations.HostQueriesReportTheFlag : Prop :=
  (∀ hooks, decode hooks 0x00000007#32 = .ok .hostIsBig ∧ decode hooks 0x00000008#32 = .ok .hostIsLittle ∧
    decode hooks 0x00000009#32 = .ok .hostEndianness) ∧
  ∀ s : State, Within s (inLength s.inp) → Within s 1 →
    EndsWith (exec .hostIsBig s) (detected s) (.bool (orderSeen s = .big)) ∧
    EndsWith (exec .hostIsLittle s) (detected s) (.bool (orderSeen s = .little)) ∧
    EndsWith (exec .hostEndianness s) (detected s) (.order (orderSeen s))

/-- R206, R207: the overrides force HOST_FLAG, write no scratch and leave OUT NONE with success; without the test hooks they
are IllegalCommand. -/
def Obligations.OverridesForceTheFlag : Prop :=
  (decode .present 0x0000000C#32 = .ok .testForceLittle ∧ decode .present 0x0000000D#32 = .ok .testForceBig) ∧
  ∀ s : State,
    (s.params.testHooks = .present → Within s (inLength s.inp) →
      EndsWith (exec .testForceLittle s) { s with hostFlag := .little } .none ∧
      EndsWith (exec .testForceBig s) { s with hostFlag := .big } .none) ∧
    (s.params.testHooks = .absent →
      EndsInError (exec .testForceLittle s) s 8 0 0 ∧ EndsInError (exec .testForceBig s) s 8 0 0)

/-- R210: ARRAY_TO_ENDIAN. -/
def Obligations.ArrayToEndianFollowsItsRule : Prop :=
  (∀ hooks, decode hooks 0x0000000A#32 = .ok (.arrayToEndian .little) ∧
    decode hooks 0x0000010A#32 = .ok (.arrayToEndian .big)) ∧
  ∀ (s : State) (ord : ByteOrder),
    (∀ ek b, IsNumeric s.inp ek b → Within s b.length →
      EndsWith (exec (.arrayToEndian ord) s) (detected s) (.view (reordered s ord (widthOfCode ek.toNat) b))) ∧
    ((∀ ek b, ¬ IsNumeric s.inp ek b) → Within s (inLength s.inp) → EndsInError (exec (.arrayToEndian ord) s) s 1 0 0)

/-- R211: ARRAY_FROM_ENDIAN, for each of its ten kinds; its words of any other kind decode to no command (what such a word
then does is IllegalWordOnlyRaisesIllegalCommand). -/
def Obligations.ArrayFromEndianFollowsItsRule : Prop :=
  (∀ hooks ord k i, fromEndianCommand k ord = some i →
    decode hooks (BitVec.ofNat 32 (0x0B + ord.code.toNat * 256 + k.code.toNat * 512)) = .ok i) ∧
  (∀ hooks (w : Word) i, w.toNat % 256 = 0x0B → w.toNat / 512 % 16 = 2 ∨ 10 < w.toNat / 512 % 16 →
    decode hooks w ≠ .ok i) ∧
  ∀ (s : State) (ord : ByteOrder) (k : ElemKind) (i : Instr), fromEndianCommand k ord = some i →
    (∀ b, IsBuffer s.inp b → Within s b.length →
      (b.length % widthOf k = 0 →
        EndsWith (exec i s) (detected s) (.numeric k (reordered s ord (widthOf k) b))) ∧
      (b.length % widthOf k ≠ 0 → EndsInError (exec i s) s 7 0 b.length)) ∧
    ((∀ b, ¬ IsBuffer s.inp b) → Within s (inLength s.inp) → EndsInError (exec i s) s 1 0 0)

/-- R213: ARRAY_FROM_ENDIAN of the result of ARRAY_TO_ENDIAN, with the same order and kind and the same HOST_FLAG order,
gives back the bytes and the kind. -/
def Obligations.FromEndianUndoesToEndian : Prop :=
  ∀ (s t s' : State) (ord : ByteOrder) (k : ElemKind) (i : Instr) (b c : List Byte), IsNumeric s.inp k.code b →
    exec (.arrayToEndian ord) s = .next t → t.out = .view c → fromEndianCommand k ord = some i → IsBuffer s'.inp c →
    orderSeen s' = orderSeen s → Within s' c.length → EndsWith (exec i s') (detected s') (.numeric k b)

/-- R209: without an override ARRAY_TO_ENDIAN writes each element's value in the requested order and ARRAY_FROM_ENDIAN
reads it in the stated order and leaves it in `HOST_BYTE_ORDER`, whatever that is; with HOST_FLAG overridden to the other
order both give the reverse. -/
def Obligations.ElementValuesFollowTheRequestedOrder : Prop :=
  ∀ (s : State) (ord : ByteOrder) (k : ElemKind) (vs : List Nat),
    (s.inp = .numeric k.code (vs.flatMap (elementBytes s.params.hostByteOrder (widthOf k))) →
      Within s (vs.length * widthOf k) →
      (s.NoOverride → EndsWith (exec (.arrayToEndian ord) s) (detected s)
        (.view (vs.flatMap (elementBytes ord (widthOf k))))) ∧
      (s.hostFlag = flagOfOrder (opposite s.params.hostByteOrder) → EndsWith (exec (.arrayToEndian ord) s) s
        (.view (vs.flatMap (elementBytes (opposite ord) (widthOf k)))))) ∧
    (∀ i, fromEndianCommand k ord = some i → IsBuffer s.inp (vs.flatMap (elementBytes ord (widthOf k))) →
      Within s (vs.length * widthOf k) →
      (s.NoOverride → EndsWith (exec i s) (detected s)
        (.numeric k (vs.flatMap (elementBytes s.params.hostByteOrder (widthOf k))))) ∧
      (s.hostFlag = flagOfOrder (opposite s.params.hostByteOrder) → EndsWith (exec i s) s
        (.numeric k (vs.flatMap (elementBytes (opposite s.params.hostByteOrder) (widthOf k))))))

/-! ## Rules of the whole machine -/

/-- R292: no step but a reset clears an override, invalidates a table or sets STATUS.VALID back to 0. A HOST_FLAG that is
set stays set, and stays as it is unless the step performs another override. -/
def Obligations.OnlyResetUndoes : Prop :=
  ∀ s t : State, step s = .next t → s.host.head? ≠ some .reset →
    (s.hostFlag ≠ .unset → t.hostFlag ≠ .unset) ∧
    (s.hostFlag ≠ .unset →
      (∀ w, s.host.head? = some (.writeCmd w) ∨ s.host.head? = some (.writeReg 0 w) →
        w ≠ 0x0000000C#32 ∧ w ≠ 0x0000000D#32) → t.hostFlag = s.hostFlag) ∧ (s.hexValid = true → t.hexValid = true) ∧
    (s.b64StdValid = true → t.b64StdValid = true) ∧ (s.b64UrlValid = true → t.b64UrlValid = true) ∧
    (statusValid s.status = 1#1 → statusValid t.status = 1#1)

/-- The premise of R301 is kept by every step that performs no override: HOST_FLAG stays UNSET or equal to the host's byte
order, and no step changes the parameters. -/
def Obligations.NoOverrideUntilOneIsPerformed : Prop :=
  ∀ s t : State, step s = .next t →
    t.params = s.params ∧
    (s.NoOverride → (∀ w, s.host.head? = some (.writeCmd w) → w ≠ 0x0000000C#32 ∧ w ≠ 0x0000000D#32) →
      (∀ v, s.host.head? = some (.writeReg 0 v) → v ≠ 0x0000000C#32 ∧ v ≠ 0x0000000D#32) → t.NoOverride)

/-- R34, R59: what a command leaves for the host to read depends only on the command, CMD, IN, the parameters and the byte
order that HOST_FLAG names or will be detected to name: not on any table, valid flag, scratch, nor on earlier results. -/
def Obligations.HiddenStateNeverShows : Prop :=
  ∀ (i : Instr) (s s' : State), s.Inv → s'.Inv → s'.params = s.params → s'.cmd = s.cmd → s'.inp = s.inp →
    orderSeen s' = orderSeen s → observed (exec i s') = observed (exec i s)

/-- R25: every reserved IN TAG acts as OTHER does. -/
def Obligations.ReservedTagsActAsOther : Prop :=
  ∀ (i : Instr) (s t : State) (tag : OtherTag) (ek : BitVec 4) (d : List TextUnit),
    exec i { s with inp := .other .other ek d } = .next t →
    exec i { s with inp := .other tag ek d } = .next { t with inp := .other tag ek d }

/-- R55: a command that accepts a NUMERIC operand as a buffer does with it what it does with a RAW operand of the same
bytes. -/
def Obligations.NumericBufferIsReadAsItsBytes : Prop :=
  ∀ (i : Instr) (s t : State) (ek : BitVec 4) (b : List Byte), IsNumeric (.numeric ek b) ek b → b.length < 2 ^ 32 →
    i ∈ [.encHex, .encB64, .encB64Url] ∨ (∃ k ord, fromEndianCommand k ord = some i) →
    exec i { s with inp := .raw ek b } = .next t →
    exec i { s with inp := .numeric ek b } = .next { t with inp := .numeric ek b }

/-- R107: UnsupportedType and ExpectingString leave every table, valid flag, HOST_FLAG and HOST_SCRATCH unchanged. -/
def Obligations.AcceptanceErrorsHaveNoSideEffect : Prop :=
  ∀ (i : Instr) (s t : State), exec i s = .next t → statusErr t.status = 1#4 ∨ statusErr t.status = 3#4 →
    t = { s with out := t.out, status := t.status, errOffset := t.errOffset }

/-! ## The host's side -/

/-- R22 with R24, R25 and R26: what each register offset reads as, the descriptors by the numbers of their codes, and 0 at any
other offset; a read changes nothing. The length registers are stated where 32 bits hold the length (log 9). -/
def Obligations.RegistersReadAsMapped : Prop :=
  ∀ (s : State) (offset : Nat) (rest : List HostAction), s.host = .readReg offset :: rest →
    ∃ v : Word, step s = .next { s with host := rest, replies := s.replies ++ [.reg offset v] } ∧
      (offset = 0x00 → v = s.cmd) ∧ (offset = 0x04 → v = s.status) ∧ (offset = 0x08 → v = s.errOffset) ∧
      (offset = 0x0C → v.toNat = inDescNumber s.inp) ∧
      (offset = 0x10 → inLengthNumber s.inp < 2 ^ 32 → v.toNat = inLengthNumber s.inp) ∧
      (offset = 0x14 → v.toNat = outDescNumber s.out) ∧
      (offset = 0x18 → outLengthNumber s.out < 2 ^ 32 → v.toNat = outLengthNumber s.out) ∧
      (offset ∉ [0x00, 0x04, 0x08, 0x0C, 0x10, 0x14, 0x18] → v = 0#32)

/-- R22, R23: a host write of CMD by its register offset is the CMD write; a write of a read-only register or of an offset
that is no register changes nothing. That OUT_DESC and OUT_LEN ignore writes, and that IN_DESC and IN_LEN are not written
alone, is the model's reading (log 14, log 15). -/
def Obligations.RegisterWritesAreCmdOrIgnored : Prop :=
  ∀ (s : State) (offset : Nat) (v : Word) (rest : List HostAction), s.host = .writeReg offset v :: rest →
    (offset = 0 → step s = step { s with host := .writeCmd v :: rest }) ∧
    (offset = 0x0C ∨ offset = 0x10 → step s = .refused .inPortWrittenInPart) ∧
    (offset ≠ 0 ∧ offset ≠ 0x0C ∧ offset ≠ 0x10 → step s = .next { s with host := rest })

/-- R24, R25, R270: SetIN sets TAG, EK, length and data together and nothing else: IN becomes the operand of the TAG code, and
IN_DESC bits 31:8 are ignored and read 0.
Elements must fit 8 bits under RAW, VIEW and NUMERIC; an action whose elements do not fit is refused (log 13). -/
def Obligations.SetInWritesThePortWhole : Prop :=
  ∀ (s : State) (desc : Word) (d : List TextUnit) (rest : List HostAction), s.host = .setIn desc d :: rest →
    ((desc.toNat % 16 ∈ [1, 2, 4] → ∀ u ∈ d, u.toNat < 256) →
      ∃ op, step s = .next { s with host := rest, inp := op } ∧
        MakesOperand (desc.toNat % 16) (BitVec.ofNat 4 (desc.toNat / 16)) d op ∧ inElems op = d ∧
        (inDesc op).toNat = desc.toNat % 256) ∧
    (desc.toNat % 16 ∈ [1, 2, 4] → (∃ u ∈ d, 256 ≤ u.toNat) → step s = .refused .setInCannotBeSent)

/-- R257: a step ends in a model fault exactly when the host reads OUT, or moves it to IN, while OUT is NONE. -/
def Obligations.FaultsAreReadsOfNoResult : Prop :=
  ∀ s : State, (∃ f, step s = .fault f) ↔
    s.out = .none ∧ (s.host.head? = some .readOut ∨ s.host.head? = some .moveOutToIn)

/-- R27, R270: reading OUT gives the host its tag, kind and data and changes nothing. -/
def Obligations.ReadOutGivesTheResult : Prop :=
  ∀ (s : State) (rest : List HostAction), s.host = .readOut :: rest → s.out ≠ .none →
    step s = .next { s with host := rest, replies := s.replies ++ [.out s.out] }

/-- R271: MOVE_OUT_TO_IN copies OUT into IN under the tag R271 gives it, and changes nothing else; while OUT is NONE it is a
fault. That IN takes EK = 0 from a VIEW, TEXT, BOOL or ORDER is the model's reading (log 25). -/
def Obligations.MoveOutToInRetags : Prop :=
  ∀ (s : State) (rest : List HostAction), s.host = .moveOutToIn :: rest →
    (s.out = .none → step s = .fault .moveOutWhileNone) ∧
    (s.out ≠ .none → ∃ op, step s = .next { s with host := rest, inp := op } ∧ inElems op = outElems s.out ∧
      (∀ d, s.out = .view d → op = .view 0#4 d) ∧ (∀ d, s.out = .text d → op = .text 0#4 d) ∧
      (∀ k d, s.out = .numeric k d → op = .numeric k.code d) ∧
      (∀ b, s.out = .bool b → op = .view 0#4 [if b then 1#8 else 0#8]) ∧
      (∀ o, s.out = .order o → op = .view 0#4 [if o = .little then 0#8 else 1#8]))

/-- R290, R35: a host reset sets every register, flag and valid bit to its reset value and keeps the parameters. That the
host's list and its replies stay is the model's choice (log 20). -/
def Obligations.HostResetRestoresResetValues : Prop :=
  ∀ (s : State) (rest : List HostAction), s.host = .reset :: rest →
    ∃ t, step s = .next t ∧ t.params = s.params ∧ t.cmd = 0#32 ∧ t.inp = .other .other 0#4 [] ∧ t.out = .none ∧
      t.status = 0#32 ∧ t.errOffset = 0#32 ∧ t.hostFlag = .unset ∧ t.hexValid = false ∧ t.b64StdValid = false ∧
      t.b64UrlValid = false ∧ t.host = rest ∧ t.replies = s.replies
end

