-- ==== Sys2Proof/Laws/Decode.lean ====
section
/-!
SUPPORT. The fields of a word laid out by R71, and the order codes of R72.
-/
namespace Sys2Proof

/-- A word of format C as a number (R71). -/
theorem wordOfFields_toNat (k : BitVec 4) (o : BitVec 1) (op : BitVec 8) :
    (wordOfFields k o op).toNat = k.toNat * 512 + o.toNat * 256 + op.toNat := by
  have ho := o.isLt
  have hp := op.isLt
  have hk := k.isLt
  simp only [wordOfFields, BitVec.toNat_append, BitVec.toNat_ofNat, Nat.zero_mod, Nat.zero_shiftLeft, Nat.zero_or]
  rw [← Nat.shiftLeft_add_eq_or_of_lt ho, ← Nat.shiftLeft_add_eq_or_of_lt hp, Nat.shiftLeft_eq, Nat.shiftLeft_eq]
  omega

/-- The OP field (R71). -/
@[simp] theorem wordOfFields_op (k : BitVec 4) (o : BitVec 1) (op : BitVec 8) :
    (wordOfFields k o op).extractLsb 7 0 = op := by
  apply BitVec.eq_of_toNat_eq
  have := op.isLt
  simp only [BitVec.extractLsb_toNat, wordOfFields_toNat, Nat.shiftRight_eq_div_pow]
  omega

/-- The ORD field (R71). -/
@[simp] theorem wordOfFields_ord (k : BitVec 4) (o : BitVec 1) (op : BitVec 8) :
    (wordOfFields k o op).extractLsb 8 8 = o := by
  apply BitVec.eq_of_toNat_eq
  have := op.isLt
  have := o.isLt
  simp only [BitVec.extractLsb_toNat, wordOfFields_toNat, Nat.shiftRight_eq_div_pow]
  omega

/-- The KIND field (R71). -/
@[simp] theorem wordOfFields_kind (k : BitVec 4) (o : BitVec 1) (op : BitVec 8) :
    (wordOfFields k o op).extractLsb 12 9 = k := by
  apply BitVec.eq_of_toNat_eq
  have := op.isLt
  have := o.isLt
  have := k.isLt
  simp only [BitVec.extractLsb_toNat, wordOfFields_toNat, Nat.shiftRight_eq_div_pow]
  omega

/-- The RSV field is 0 (R71, R75). -/
@[simp] theorem wordOfFields_rsv (k : BitVec 4) (o : BitVec 1) (op : BitVec 8) :
    (wordOfFields k o op).extractLsb 31 13 = 0#19 := by
  apply BitVec.eq_of_toNat_eq
  have := op.isLt
  have := o.isLt
  have := k.isLt
  simp only [BitVec.extractLsb_toNat, wordOfFields_toNat, Nat.shiftRight_eq_div_pow, BitVec.toNat_ofNat]
  omega

/-- A word with RSV = 0 is the word of its fields (R71). -/
theorem word_eq_wordOfFields (w : Word) (h : w.extractLsb 31 13 = 0#19) :
    w = wordOfFields (w.extractLsb 12 9) (w.extractLsb 8 8) (w.extractLsb 7 0) := by
  apply BitVec.eq_of_toNat_eq
  have hw := w.isLt
  have h' := congrArg BitVec.toNat h
  simp only [BitVec.extractLsb_toNat, wordOfFields_toNat, Nat.shiftRight_eq_div_pow, BitVec.toNat_ofNat] at *
  omega

@[simp] theorem ByteOrder.ofCode_code (o : ByteOrder) : ByteOrder.ofCode o.code = o := by
  cases o <;> rfl

@[simp] theorem ByteOrder.code_ofCode (c : BitVec 1) : (ByteOrder.ofCode c).code = c := by
  revert c
  decide

@[simp] theorem ElemKind.ofCode?_code (k : ElemKind) : ElemKind.ofCode? k.code = some k := by
  cases k <;> rfl

/-- A kind code read back is the kind's code (R103). -/
theorem ElemKind.code_of_ofCode? {c : BitVec 4} {k : ElemKind} (h : ElemKind.ofCode? c = some k) : k.code = c := by
  revert c k
  decide +revert

end Sys2Proof
end

