-- ==== Sys2Proof/Laws/State.lean ====
section
/-!
SUPPORT. One lemma per field per named update of State: completion, `raise`, table build, `ensure_built`, detection, and
the completed and raised states' other fields.
-/
namespace Sys2Proof.Machine

/-! ## Success (R82) -/

@[simp] theorem complete_params (s : State) (r : OutResult) : (complete s r).params = s.params := rfl
@[simp] theorem complete_host (s : State) (r : OutResult) : (complete s r).host = s.host := rfl
@[simp] theorem complete_replies (s : State) (r : OutResult) : (complete s r).replies = s.replies := rfl
@[simp] theorem complete_cmd (s : State) (r : OutResult) : (complete s r).cmd = s.cmd := rfl
@[simp] theorem complete_inp (s : State) (r : OutResult) : (complete s r).inp = s.inp := rfl
@[simp] theorem complete_out (s : State) (r : OutResult) : (complete s r).out = r := rfl
@[simp] theorem complete_status (s : State) (r : OutResult) : (complete s r).status = statusWord 0#4 0#3 := rfl
@[simp] theorem complete_errOffset (s : State) (r : OutResult) : (complete s r).errOffset = 0#32 := rfl
@[simp] theorem complete_hostFlag (s : State) (r : OutResult) : (complete s r).hostFlag = s.hostFlag := rfl
@[simp] theorem complete_hostScratch (s : State) (r : OutResult) : (complete s r).hostScratch = s.hostScratch := rfl
@[simp] theorem complete_hexTbl (s : State) (r : OutResult) : (complete s r).hexTbl = s.hexTbl := rfl
@[simp] theorem complete_hexValid (s : State) (r : OutResult) : (complete s r).hexValid = s.hexValid := rfl
@[simp] theorem complete_b64StdTbl (s : State) (r : OutResult) : (complete s r).b64StdTbl = s.b64StdTbl := rfl
@[simp] theorem complete_b64StdValid (s : State) (r : OutResult) : (complete s r).b64StdValid = s.b64StdValid := rfl
@[simp] theorem complete_b64UrlTbl (s : State) (r : OutResult) : (complete s r).b64UrlTbl = s.b64UrlTbl := rfl
@[simp] theorem complete_b64UrlValid (s : State) (r : OutResult) : (complete s r).b64UrlValid = s.b64UrlValid := rfl

/-! ## `raise` (R252) -/

@[simp] theorem raiseError_params (s : State) (e : CmdError) : (raiseError s e).params = s.params := rfl
@[simp] theorem raiseError_host (s : State) (e : CmdError) : (raiseError s e).host = s.host := rfl
@[simp] theorem raiseError_replies (s : State) (e : CmdError) : (raiseError s e).replies = s.replies := rfl
@[simp] theorem raiseError_cmd (s : State) (e : CmdError) : (raiseError s e).cmd = s.cmd := rfl
@[simp] theorem raiseError_inp (s : State) (e : CmdError) : (raiseError s e).inp = s.inp := rfl
@[simp] theorem raiseError_out (s : State) (e : CmdError) : (raiseError s e).out = .none := rfl
@[simp] theorem raiseError_status (s : State) (e : CmdError) : (raiseError s e).status = statusWord (errCode e.kind) e.run := rfl
@[simp] theorem raiseError_errOffset (s : State) (e : CmdError) : (raiseError s e).errOffset = errOffsetWord s.cmd s.inp e.off := rfl
@[simp] theorem raiseError_hostFlag (s : State) (e : CmdError) : (raiseError s e).hostFlag = s.hostFlag := rfl
@[simp] theorem raiseError_hostScratch (s : State) (e : CmdError) : (raiseError s e).hostScratch = s.hostScratch := rfl
@[simp] theorem raiseError_hexTbl (s : State) (e : CmdError) : (raiseError s e).hexTbl = s.hexTbl := rfl
@[simp] theorem raiseError_hexValid (s : State) (e : CmdError) : (raiseError s e).hexValid = s.hexValid := rfl
@[simp] theorem raiseError_b64StdTbl (s : State) (e : CmdError) : (raiseError s e).b64StdTbl = s.b64StdTbl := rfl
@[simp] theorem raiseError_b64StdValid (s : State) (e : CmdError) : (raiseError s e).b64StdValid = s.b64StdValid := rfl
@[simp] theorem raiseError_b64UrlTbl (s : State) (e : CmdError) : (raiseError s e).b64UrlTbl = s.b64UrlTbl := rfl
@[simp] theorem raiseError_b64UrlValid (s : State) (e : CmdError) : (raiseError s e).b64UrlValid = s.b64UrlValid := rfl

/-! ## Table builds (R153): everything but the tables and their flags -/

@[simp] theorem buildTable_params (t : TableId) (s : State) : (buildTable t s).params = s.params := by cases t <;> rfl
@[simp] theorem buildTable_host (t : TableId) (s : State) : (buildTable t s).host = s.host := by cases t <;> rfl
@[simp] theorem buildTable_replies (t : TableId) (s : State) : (buildTable t s).replies = s.replies := by cases t <;> rfl
@[simp] theorem buildTable_cmd (t : TableId) (s : State) : (buildTable t s).cmd = s.cmd := by cases t <;> rfl
@[simp] theorem buildTable_inp (t : TableId) (s : State) : (buildTable t s).inp = s.inp := by cases t <;> rfl
@[simp] theorem buildTable_out (t : TableId) (s : State) : (buildTable t s).out = s.out := by cases t <;> rfl
@[simp] theorem buildTable_status (t : TableId) (s : State) : (buildTable t s).status = s.status := by cases t <;> rfl
@[simp] theorem buildTable_errOffset (t : TableId) (s : State) : (buildTable t s).errOffset = s.errOffset := by cases t <;> rfl
@[simp] theorem buildTable_hostFlag (t : TableId) (s : State) : (buildTable t s).hostFlag = s.hostFlag := by cases t <;> rfl
@[simp] theorem buildTable_hostScratch (t : TableId) (s : State) : (buildTable t s).hostScratch = s.hostScratch := by cases t <;> rfl

@[simp] theorem ensureBuilt_params (t : TableId) (s : State) : (ensureBuilt t s).params = s.params := by
  unfold ensureBuilt; split <;> simp
@[simp] theorem ensureBuilt_host (t : TableId) (s : State) : (ensureBuilt t s).host = s.host := by
  unfold ensureBuilt; split <;> simp
@[simp] theorem ensureBuilt_replies (t : TableId) (s : State) : (ensureBuilt t s).replies = s.replies := by
  unfold ensureBuilt; split <;> simp
@[simp] theorem ensureBuilt_cmd (t : TableId) (s : State) : (ensureBuilt t s).cmd = s.cmd := by
  unfold ensureBuilt; split <;> simp
@[simp] theorem ensureBuilt_inp (t : TableId) (s : State) : (ensureBuilt t s).inp = s.inp := by
  unfold ensureBuilt; split <;> simp
@[simp] theorem ensureBuilt_out (t : TableId) (s : State) : (ensureBuilt t s).out = s.out := by
  unfold ensureBuilt; split <;> simp
@[simp] theorem ensureBuilt_status (t : TableId) (s : State) : (ensureBuilt t s).status = s.status := by
  unfold ensureBuilt; split <;> simp
@[simp] theorem ensureBuilt_errOffset (t : TableId) (s : State) : (ensureBuilt t s).errOffset = s.errOffset := by
  unfold ensureBuilt; split <;> simp
@[simp] theorem ensureBuilt_hostFlag (t : TableId) (s : State) : (ensureBuilt t s).hostFlag = s.hostFlag := by
  unfold ensureBuilt; split <;> simp
@[simp] theorem ensureBuilt_hostScratch (t : TableId) (s : State) : (ensureBuilt t s).hostScratch = s.hostScratch := by
  unfold ensureBuilt; split <;> simp

/-- After `ensure_built` the table is valid (R153). -/
@[simp] theorem ensureBuilt_valid (t : TableId) (s : State) : tableValid (ensureBuilt t s) t = true := by
  unfold ensureBuilt
  split
  · assumption
  · cases t <;> rfl

/-- A valid table is never rebuilt (R65, R153). -/
theorem ensureBuilt_of_valid (t : TableId) (s : State) (h : tableValid s t = true) : ensureBuilt t s = s := by
  simp [ensureBuilt, h]

/-- A table that is not valid is built (R153). -/
theorem ensureBuilt_of_not_valid (t : TableId) (s : State) (h : tableValid s t = false) :
    ensureBuilt t s = buildTable t s := by
  simp [ensureBuilt, h]

/-- A build writes the built contents (R153). -/
@[simp] theorem buildTable_entries (t : TableId) (s : State) : tableEntries (buildTable t s) t = builtTable t := by
  cases t <;> rfl

/-- `ensure_built` of one table leaves another's contents and flag alone (R153). -/
theorem ensureBuilt_other (t u : TableId) (s : State) (h : u ≠ t) :
    tableEntries (ensureBuilt t s) u = tableEntries s u ∧ tableValid (ensureBuilt t s) u = tableValid s u := by
  unfold ensureBuilt
  split
  · exact ⟨rfl, rfl⟩
  · cases t <;> cases u <;> first | exact absurd rfl h | exact ⟨rfl, rfl⟩

/-! ## Detection (R200): everything but HOST_FLAG and HOST_SCRATCH -/

@[simp] theorem detect_params (s : State) : (detect s).params = s.params := by
  unfold detect; split <;> rfl
@[simp] theorem detect_host (s : State) : (detect s).host = s.host := by
  unfold detect; split <;> rfl
@[simp] theorem detect_replies (s : State) : (detect s).replies = s.replies := by
  unfold detect; split <;> rfl
@[simp] theorem detect_cmd (s : State) : (detect s).cmd = s.cmd := by
  unfold detect; split <;> rfl
@[simp] theorem detect_inp (s : State) : (detect s).inp = s.inp := by
  unfold detect; split <;> rfl
@[simp] theorem detect_out (s : State) : (detect s).out = s.out := by
  unfold detect; split <;> rfl
@[simp] theorem detect_status (s : State) : (detect s).status = s.status := by
  unfold detect; split <;> rfl
@[simp] theorem detect_errOffset (s : State) : (detect s).errOffset = s.errOffset := by
  unfold detect; split <;> rfl
@[simp] theorem detect_hexTbl (s : State) : (detect s).hexTbl = s.hexTbl := by
  unfold detect; split <;> rfl
@[simp] theorem detect_hexValid (s : State) : (detect s).hexValid = s.hexValid := by
  unfold detect; split <;> rfl
@[simp] theorem detect_b64StdTbl (s : State) : (detect s).b64StdTbl = s.b64StdTbl := by
  unfold detect; split <;> rfl
@[simp] theorem detect_b64StdValid (s : State) : (detect s).b64StdValid = s.b64StdValid := by
  unfold detect; split <;> rfl
@[simp] theorem detect_b64UrlTbl (s : State) : (detect s).b64UrlTbl = s.b64UrlTbl := by
  unfold detect; split <;> rfl
@[simp] theorem detect_b64UrlValid (s : State) : (detect s).b64UrlValid = s.b64UrlValid := by
  unfold detect; split <;> rfl

/-- A probed scratch gives the flag of the host's byte order (R200). -/
@[simp] theorem flagOfScratch_probeBytes (o : ByteOrder) : flagOfScratch (probeBytes o) = flagOfOrder o := by
  cases o <;> rfl

/-- Detection sets the flag to the order that `flag_ord` then reads (R200, R203). -/
@[simp] theorem detect_hostFlag (s : State) : (detect s).hostFlag = flagOfOrder (flagOrd s) := by
  unfold detect flagOrd
  split <;> simp_all [flagOfOrder]

/-- Detection does not change the order a command compares with (R200, R203). -/
@[simp] theorem flagOrd_detect (s : State) : flagOrd (detect s) = flagOrd s := by
  unfold detect
  split <;> simp_all [flagOrd]
  cases s.params.hostByteOrder <;> rfl

/-- Once HOST_FLAG is set, detection changes nothing (R200). -/
theorem detect_of_set (s : State) (h : s.hostFlag ≠ .unset) : detect s = s := by
  unfold detect
  split <;> simp_all

@[simp] theorem flagOrd_ensureBuilt (t : TableId) (s : State) : flagOrd (ensureBuilt t s) = flagOrd s := by
  simp [flagOrd]

@[simp] theorem flagOfOrder_ne_unset (o : ByteOrder) : flagOfOrder o ≠ .unset := by
  cases o <;> decide

end Sys2Proof.Machine
end

