-- ==== Sys2Proof/Laws/Ops.lean ====
section
/-!
SUPPORT. What the shared operations can answer: the length guards (R68), STATUS and ERR_OFFSET words (R28, R29), and the
inversion of a guarded command.
-/
namespace Sys2Proof.Machine

/-! ## Length bound -/

theorem withinMax_iff (p : Params) (n : Nat) : withinMax p n = true ↔ ∀ m, p.maxLen = some m → n ≤ m := by
  unfold withinMax
  cases p.maxLen <;> simp

/-- Within `MAX_LEN` a shorter length stays within it. -/
theorem withinMax_mono {p : Params} {m n : Nat} (h : withinMax p n = true) (hmn : m ≤ n) : withinMax p m = true := by
  rw [withinMax_iff] at *
  exact fun k hk => hmn.trans (h k hk)

@[simp] theorem withinMax_of_unbounded (p : Params) (n : Nat) (h : p.maxLen = none) : withinMax p n = true := by
  simp [withinMax, h]

theorem guardIn_of_within {s : State} {k : StepOutcome} (h : withinMax s.params (inLength s.inp) = true) :
    guardIn s k = k := by
  simp [guardIn, h]

theorem guardOut_of_within {s : State} {n : Nat} {k : StepOutcome} (h : withinMax s.params n = true) :
    guardOut s n k = k := by
  simp [guardOut, h]

/-- A guarded command answers a next state only within the bound, and then it is the command's own (R68). -/
theorem guardIn_eq_next {s t : State} {k : StepOutcome} :
    guardIn s k = .next t ↔ withinMax s.params (inLength s.inp) = true ∧ k = .next t := by
  unfold guardIn
  split <;> simp_all

theorem guardOut_eq_next {s t : State} {n : Nat} {k : StepOutcome} :
    guardOut s n k = .next t ↔ withinMax s.params n = true ∧ k = .next t := by
  unfold guardOut
  split <;> simp_all

theorem guardIn_ne_fault {s : State} {k : StepOutcome} {f : Fault} (h : k ≠ .fault f) : guardIn s k ≠ .fault f := by
  unfold guardIn
  split <;> simp_all

theorem guardOut_ne_fault {s : State} {n : Nat} {k : StepOutcome} {f : Fault} (h : k ≠ .fault f) :
    guardOut s n k ≠ .fault f := by
  unfold guardOut
  split <;> simp_all

/-! ## STATUS and ERR_OFFSET -/

@[simp] theorem statusErr_statusWord (e : BitVec 4) (r : BitVec 3) : statusErr (statusWord e r) = e := by
  revert e r; decide

@[simp] theorem statusValid_statusWord (e : BitVec 4) (r : BitVec 3) : statusValid (statusWord e r) = 1#1 := by
  revert e r; decide

@[simp] theorem statusRun_statusWord (e : BitVec 4) (r : BitVec 3) : statusRun (statusWord e r) = r := by
  revert e r; decide

/-- The reserved bits of STATUS are written 0 (R28). -/
theorem statusWord_reserved (e : BitVec 4) (r : BitVec 3) :
    (statusWord e r).extractLsb 7 5 = 0#3 ∧ (statusWord e r).extractLsb 31 11 = 0#21 := by
  revert e r; decide

/-- STATUS as a number: VALID is worth 16, RUN 256 (R28). -/
theorem statusWord_eq_ofNat (e : BitVec 4) (r : BitVec 3) :
    statusWord e r = BitVec.ofNat 32 (16 + e.toNat + 256 * r.toNat) := by
  revert e r; decide

/-- ERR_OFFSET is the index wherever 32 bits hold it (R29). -/
theorem errOffsetWord_of_lt (cmd : Word) (inp : InOperand) {off : Nat} (h : off < 2 ^ 32) :
    errOffsetWord cmd inp off = BitVec.ofNat 32 off := by
  simp only [errOffsetWord, if_pos h]

@[simp] theorem errOffsetWord_zero (cmd : Word) (inp : InOperand) : errOffsetWord cmd inp 0 = 0#32 :=
  errOffsetWord_of_lt cmd inp (by decide)

/-! ## Operands -/

/-- A descriptor laid out as R24 and R26 lay it out, as a number. -/
theorem desc_toNat (ek tag : BitVec 4) : (0#24 ++ ek ++ tag).toNat = tag.toNat + 16 * ek.toNat := by
  have := tag.isLt
  simp only [BitVec.toNat_append, BitVec.toNat_ofNat, Nat.zero_mod, Nat.zero_shiftLeft, Nat.zero_or]
  rw [← Nat.shiftLeft_add_eq_or_of_lt this, Nat.shiftLeft_eq]
  omega

/-- IN_DESC as a number (R24). -/
theorem inDesc_toNat (i : InOperand) : (inDesc i).toNat = (inTag i).toNat + 16 * (inEk i).toNat := desc_toNat _ _

/-- OUT_DESC as a number (R26). -/
theorem outDesc_toNat (o : OutResult) : (outDesc o).toNat = (outTag o).toNat + 16 * (outEk o).toNat := desc_toNat _ _

@[simp] theorem inElems_length (i : InOperand) : (inElems i).length = inLength i := by
  cases i <;> simp [inElems, inLength]

/-- The bytes `view()` gives are as many as IN's elements (R100). -/
theorem acceptView_length {i : InOperand} {b : List Byte} (h : acceptView i = some b) : b.length = inLength i := by
  cases i with
  | raw ek d => cases h; rfl
  | view ek d => cases h; rfl
  | numeric ek d =>
    simp only [acceptView] at h
    split at h <;> cases h
    rfl
  | text ek d => cases h
  | other t ek d => cases h

/-- The code units `text()` gives are as many as IN's elements (R105). -/
theorem acceptText_length {i : InOperand} {t : List TextUnit} (h : acceptText i = some t) : t.length = inLength i := by
  cases i <;> cases h
  rfl

/-- The bytes `numeric()` gives are as many as IN's elements, and whole elements of the kind (R102, R104). -/
theorem acceptNumeric_spec {i : InOperand} {k : ElemKind} {b : List Byte} (h : acceptNumeric i = some (k, b)) :
    b.length = inLength i ∧ b.length % elemWidth k = 0 := by
  cases i with
  | numeric ek d =>
    simp only [acceptNumeric] at h
    split at h
    · rename_i k' hk
      cases h
      refine ⟨rfl, ?_⟩
      simp only [numericKind?] at hk
      split at hk
      · split at hk <;> cases hk
        assumption
      · cases hk
    · cases h
  | raw ek d => cases h
  | view ek d => cases h
  | text ek d => cases h
  | other t ek d => cases h

theorem elemWidth_pos (k : ElemKind) : 0 < elemWidth k := by
  cases k <;> decide

/-- The mask check of R211 is the remainder by the width: the widths are powers of two. -/
theorem length_mask_eq_mod (n : Nat) (k : ElemKind) : n &&& (elemWidth k - 1) = n % elemWidth k := by
  have h1 : n &&& 2 ^ 0 - 1 = n % 2 ^ 0 := Nat.and_two_pow_sub_one_eq_mod n 0
  have h2 : n &&& 2 ^ 1 - 1 = n % 2 ^ 1 := Nat.and_two_pow_sub_one_eq_mod n 1
  have h4 : n &&& 2 ^ 2 - 1 = n % 2 ^ 2 := Nat.and_two_pow_sub_one_eq_mod n 2
  have h8 : n &&& 2 ^ 3 - 1 = n % 2 ^ 3 := Nat.and_two_pow_sub_one_eq_mod n 3
  cases k <;> assumption

end Sys2Proof.Machine
end

