-- ==== Sys2Proof/Laws/Tables.lean ====
section
/-!
SUPPORT. The reverse tables entry by entry, and looking up what an encoder writes (R106, R120, R152).
-/
namespace Sys2Proof.Machine

@[simp] theorem tableOf_getElem (f : Nat → Byte) (i : Nat) (h : i < 256) : (tableOf f)[i] = f i := by
  simp [tableOf]

/-- Looking up in a built table: the entry of the code unit, or the sentinel above 255 (R106). -/
theorem lookup_tableOf (f : Nat → Byte) (u : TextUnit) :
    lookup (tableOf f) u = if u.toNat < 256 then f u.toNat else sentinel := by
  unfold lookup
  split <;> simp_all

/-- A built table holds the digit value of every hex digit the encoder writes (R120, R121). -/
theorem lookup_hex_digit (d : Fin 16) : lookup (builtTable .hex) hexDigits[d] = BitVec.ofNat 8 d.val := by
  simp only [builtTable, lookup_tableOf]
  revert d
  decide

/-- A built reverse table maps each character of its alphabet to its index (R150, R152). -/
theorem lookup_std_char (i : Fin 64) : lookup (builtTable .std) alphaStd[i] = BitVec.ofNat 8 i.val := by
  simp only [builtTable, lookup_tableOf]
  revert i
  decide

theorem lookup_url_char (i : Fin 64) : lookup (builtTable .url) alphaUrl[i] = BitVec.ofNat 8 i.val := by
  simp only [builtTable, lookup_tableOf]
  revert i
  decide

/-- Every code unit a decoder can meet is below 2^16. -/
theorem textUnit_lt (u : TextUnit) : u.toNat < 65536 := u.isLt

end Sys2Proof.Machine
end

