-- ==== Sys2Proof/Laws/Text.lean ====
section
/-!
SUPPORT. Bit packing as arithmetic (R11, R122, R156 to R159), and the lengths of what the codecs write (R66, R154, R155).
-/
namespace Sys2Proof.Machine

/-! ## Bit packing as arithmetic -/

/-- `(a << k) | b` is `a * 2^k + b` when `b` has at most `k` bits. -/
theorem shiftLeft_or_eq_add (a b k : Nat) (h : b < 2 ^ k) : a <<< k ||| b = a * 2 ^ k + b := by
  rw [← Nat.shiftLeft_add_eq_or_of_lt h, Nat.shiftLeft_eq]

theorem nibble_val (v lo : Nat) : (nibble v lo).val = v / 2 ^ lo % 16 := by
  simp [nibble, Nat.shiftRight_eq_div_pow]

theorem sextet_val (w lo : Nat) : (sextet w lo).val = w / 2 ^ lo % 64 := by
  simp [sextet, Nat.shiftRight_eq_div_pow]

/-- The 24-bit word of three bytes (R156). -/
theorem groupWord_eq (b0 b1 b2 : Byte) :
    (b0.toNat <<< 16) ||| (b1.toNat <<< 8) ||| b2.toNat = b0.toNat * 65536 + b1.toNat * 256 + b2.toNat := by
  have h1 := b1.isLt
  have h2 := b2.isLt
  have h : (b1.toNat <<< 8) ||| b2.toNat = b1.toNat * 256 + b2.toNat := shiftLeft_or_eq_add _ _ 8 h2
  rw [Nat.or_assoc, h, shiftLeft_or_eq_add _ _ 16 (by omega)]
  omega

/-- The 24-bit word of a 2-byte tail (R157). -/
theorem tailWord_eq (b0 b1 : Byte) : (b0.toNat <<< 16) ||| (b1.toNat <<< 8) = b0.toNat * 65536 + b1.toNat * 256 := by
  have h := groupWord_eq b0 b1 0#8
  simpa using h

/-- The 24-bit word of four 6-bit values (R158). -/
theorem sextetWord_eq (v0 v1 v2 v3 : Nat) (h1 : v1 < 64) (h2 : v2 < 64) (h3 : v3 < 64) :
    (v0 <<< 18) ||| (v1 <<< 12) ||| (v2 <<< 6) ||| v3 = v0 * 262144 + v1 * 4096 + v2 * 64 + v3 := by
  have a : (v2 <<< 6) ||| v3 = v2 * 64 + v3 := shiftLeft_or_eq_add _ _ 6 h3
  have b : (v1 <<< 12) ||| (v2 * 64 + v3) = v1 * 4096 + (v2 * 64 + v3) := shiftLeft_or_eq_add _ _ 12 (by omega)
  rw [Nat.or_assoc, Nat.or_assoc, a, b, shiftLeft_or_eq_add _ _ 18 (by omega)]
  omega

/-- The byte of two digit values (R123). -/
theorem hexByte_toNat (h l : Nat) (hh : h < 16) (hl : l < 16) :
    (hexByte (BitVec.ofNat 8 h) (BitVec.ofNat 8 l)).toNat = h * 16 + l := by
  have a : (BitVec.ofNat 8 h).toNat = h := by simp; omega
  have b : (BitVec.ofNat 8 l).toNat = l := by simp; omega
  have c : h <<< 4 ||| l = h * 16 + l := shiftLeft_or_eq_add h l 4 hl
  rw [hexByte, a, b, c]
  simp
  omega

/-! ## Lengths -/

@[simp] theorem hexText_length (b : List Byte) : (hexText b).length = 2 * b.length := by
  induction b with
  | nil => rfl
  | cons x xs ih =>
    simp only [hexText, hexPair, List.flatMap_cons, List.length_append, List.length_cons, List.length_nil] at *
    omega

@[simp] theorem encGroup_length (v : Variant) (b0 b1 b2 : Byte) : (encGroup v b0 b1 b2).length = 4 := rfl

/-- The encoder writes exactly the output length R154 fixes (R66). -/
theorem b64Text_length (v : Variant) (b : List Byte) : (b64Text v b).length = encLen b.length (padOn v) := by
  induction b using b64Text.induct with
  | case1 b0 b1 b2 rest ih =>
    simp only [b64Text, List.length_append, encGroup_length, ih, List.length_cons, encLen]
    cases padOn v
    · simp only [Bool.false_eq_true, false_or]
      split_ifs <;> omega
    · simp only [true_or, if_true]
      omega
  | case2 b0 b1 => cases v <;> simp [b64Text, encTail2, encLen, padOn]
  | case3 b0 => cases v <;> simp [b64Text, encTail1, encLen, padOn]
  | case4 => simp [b64Text, encLen]

/-- Equal chunks laid end to end have the total length of the chunks. -/
theorem flatMap_range_length {α : Type} (f : Nat → List α) (w n : Nat) (h : ∀ e < n, (f e).length = w) :
    ((List.range n).flatMap f).length = n * w := by
  induction n with
  | zero => simp
  | succ n ih =>
    rw [List.range_succ, List.flatMap_append, List.length_append, ih (fun e he => h e (by omega))]
    simp [h n (by omega), Nat.succ_mul]

/-- Reordering whole elements keeps the number of bytes (R208). -/
theorem reorder_length (flag : ByteOrder) (b : List Byte) (w : Nat) (ord : ByteOrder) (h : b.length % w = 0) :
    (reorder flag b w ord).length = b.length := by
  have hd : b.length / w * w = b.length := Nat.div_mul_cancel (Nat.dvd_of_mod_eq_zero h)
  rw [reorder, flatMap_range_length _ w, hd]
  intro e he
  have : e * w + w ≤ b.length := by
    calc e * w + w = (e + 1) * w := by ring
      _ ≤ b.length / w * w := Nat.mul_le_mul_right w he
      _ = b.length := hd
  split <;> simp <;> omega

end Sys2Proof.Machine
end

