-- ==== Sys2Proof/Laws/Exec.lean ====
section
/-!
SUPPORT. What a command can do, said once: one inversion lemma per family of meanings, and one for every command.
-/
namespace Sys2Proof.Machine

/-- A result that a command may leave in OUT (R26): a NUMERIC result has a kind ARRAY_FROM_ENDIAN takes and whole elements,
a TEXT result is ASCII. -/
def ResultOk (r : OutResult) : Prop :=
  (∀ k d, r = .numeric k d → k ≠ .uint8clamped ∧ d.length % elemWidth k = 0) ∧
    ∀ d, r = .text d → ∀ u ∈ d, u < 128#16

/-- An error that a command may raise: RUN is 2, 3 or 4 for UnsupportedCharacter, else 0 (R250). -/
def ErrorOk (e : CmdError) : Prop :=
  if e.kind = .unsupportedCharacter then e.run ∈ [2#3, 3#3, 4#3] else e.run = 0#3

/-- The side effects a command may have had before it completes (R36). -/
inductive SideEffect (s : State) : State → Prop where
  | none : SideEffect s s
  | built (t : TableId) : SideEffect s (ensureBuilt t s)
  | detected : SideEffect s (detect s)
  | forced (o : ByteOrder) : SideEffect s { s with hostFlag := flagOfOrder o }

/-! ## Results -/

theorem resultOk_view (d : List Byte) : ResultOk (.view d) := by simp [ResultOk]

theorem resultOk_none : ResultOk .none := by simp [ResultOk]

theorem resultOk_bool (b : Bool) : ResultOk (.bool b) := by simp [ResultOk]

theorem resultOk_order (o : ByteOrder) : ResultOk (.order o) := by simp [ResultOk]

theorem hexDigits_ascii (i : Fin 16) : hexDigits[i] < 128#16 := by
  revert i; decide

theorem alphabet_ascii (v : Variant) (i : Fin 64) : (alphabet v)[i] < 128#16 := by
  cases v <;> revert i <;> decide

theorem hexText_ascii (b : List Byte) : ∀ u ∈ hexText b, u < 128#16 := by
  intro u hu
  simp only [hexText, List.mem_flatMap, hexPair, List.mem_cons, List.not_mem_nil, or_false] at hu
  obtain ⟨_, _, rfl | rfl⟩ := hu <;> exact hexDigits_ascii _

theorem pad_ascii : pad < 128#16 := by decide

theorem b64Text_ascii (v : Variant) (b : List Byte) : ∀ u ∈ b64Text v b, u < 128#16 := by
  induction b using b64Text.induct with
  | case1 b0 b1 b2 rest ih =>
    intro u hu
    simp only [b64Text, List.mem_append, encGroup, List.mem_cons, List.not_mem_nil, or_false] at hu
    obtain (rfl | rfl | rfl | rfl) | h := hu
    · exact alphabet_ascii _ _
    · exact alphabet_ascii _ _
    · exact alphabet_ascii _ _
    · exact alphabet_ascii _ _
    · exact ih u h
  | case2 b0 b1 =>
    intro u hu
    simp only [b64Text, encTail2, List.mem_append, List.mem_cons, List.not_mem_nil, or_false] at hu
    obtain (rfl | rfl | rfl) | h := hu
    · exact alphabet_ascii _ _
    · exact alphabet_ascii _ _
    · exact alphabet_ascii _ _
    · cases v <;> simp [padOn] at h
      exact h ▸ pad_ascii
  | case3 b0 =>
    intro u hu
    simp only [b64Text, encTail1, List.mem_append, List.mem_cons, List.not_mem_nil, or_false] at hu
    obtain (rfl | rfl) | h := hu
    · exact alphabet_ascii _ _
    · exact alphabet_ascii _ _
    · cases v <;> simp [padOn] at h
      exact h ▸ pad_ascii
  | case4 => simp [b64Text]

theorem resultOk_hexText (b : List Byte) : ResultOk (.text (hexText b)) := by
  refine ⟨by simp, fun d hd => ?_⟩
  cases hd
  exact hexText_ascii b

theorem resultOk_b64Text (v : Variant) (b : List Byte) : ResultOk (.text (b64Text v b)) := by
  refine ⟨by simp, fun d hd => ?_⟩
  cases hd
  exact b64Text_ascii v b

/-! ## Errors -/

theorem hexBytes_error {t : RevTable} {off : Nat} {u : List TextUnit} {e : CmdError}
    (h : hexBytes t off u = .error e) : e.kind = .badInput ∧ e.run = 0#3 := by
  induction off, u using hexBytes.induct t with
  | case1 off => simp [hexBytes] at h
  | case2 off c => simp only [hexBytes, Except.error.injEq] at h; subst h; exact ⟨rfl, rfl⟩
  | case3 off c0 c1 rest hbad => simp only [hexBytes, if_pos hbad, Except.error.injEq] at h; subst h; exact ⟨rfl, rfl⟩
  | case4 off c0 c1 rest hok bs hbs ih => simp only [hexBytes, if_neg hok, hbs] at h; cases h
  | case5 off c0 c1 rest hok e' he ih =>
    simp only [hexBytes, if_neg hok, he, Except.error.injEq] at h
    subst h
    exact ih he

theorem b64Bytes_error {t : RevTable} {off : Nat} {u : List TextUnit} {e : CmdError}
    (h : b64Bytes t off u = .error e) : ErrorOk e := by
  induction off, u using b64Bytes.induct t with
  | case1 off c0 c1 c2 c3 rest hbad =>
    simp only [b64Bytes, if_pos hbad, Except.error.injEq] at h; subst h; simp [ErrorOk]
  | case2 off c0 c1 c2 c3 rest hok bs hbs ih => simp only [b64Bytes, if_neg hok, hbs] at h; cases h
  | case3 off c0 c1 c2 c3 rest hok e' he ih =>
    simp only [b64Bytes, if_neg hok, he, Except.error.injEq] at h; subst h; exact ih he
  | case4 off c0 c1 c2 hbad => simp only [b64Bytes, if_pos hbad, Except.error.injEq] at h; subst h; simp [ErrorOk]
  | case5 off c0 c1 c2 hok hfill =>
    simp only [b64Bytes, if_neg hok, if_pos hfill, Except.error.injEq] at h; subst h; simp [ErrorOk]
  | case6 off c0 c1 c2 hok hfill => simp only [b64Bytes, if_neg hok, if_neg hfill] at h; cases h
  | case7 off c0 c1 hbad => simp only [b64Bytes, if_pos hbad, Except.error.injEq] at h; subst h; simp [ErrorOk]
  | case8 off c0 c1 hok hfill =>
    simp only [b64Bytes, if_neg hok, if_pos hfill, Except.error.injEq] at h; subst h; simp [ErrorOk]
  | case9 off c0 c1 hok hfill => simp only [b64Bytes, if_neg hok, if_neg hfill] at h; cases h
  | case10 off c => simp only [b64Bytes, Except.error.injEq] at h; subst h; simp [ErrorOk]
  | case11 off => simp [b64Bytes] at h

/-! ## One inversion lemma per family -/

/-- A command completed from `s'`: by success with a result it may leave, or by an error it may raise (R81). -/
inductive Completed (s' : State) : State → Prop where
  | success {r : OutResult} (h : ResultOk r) : Completed s' (complete s' r)
  | error {e : CmdError} (h : ErrorOk e) : Completed s' (raiseError s' e)

/-- ENC_HEX has no side effect (R124). -/
theorem execEncHex_next {s t : State} (h : execEncHex s = .next t) : Completed s t := by
  obtain ⟨-, h⟩ := guardIn_eq_next.mp h
  split at h
  · cases h; exact .error rfl
  · cases (guardOut_eq_next.mp h).2; exact .success (resultOk_hexText _)

/-- DEC_HEX raises ExpectingString with no side effect, or builds HEX_TBL first (R107, R125). -/
theorem execDecHex_next {s t : State} (h : execDecHex s = .next t) :
    Completed s t ∨ Completed (ensureBuilt .hex s) t := by
  obtain ⟨-, h⟩ := guardIn_eq_next.mp h
  split at h
  · cases h; exact .inl (.error rfl)
  · refine .inr ?_
    split at h
    · cases h; exact .error rfl
    · obtain ⟨-, h⟩ := guardOut_eq_next.mp h
      split at h
      · rename_i e he
        cases h
        refine .error ?_
        simp [ErrorOk, hexBytes_error he]
      · cases h; exact .success (resultOk_view _)

/-- The Base64 encoders have no side effect (R162). -/
theorem b64Encode_next {v : Variant} {s t : State} (h : b64Encode v s = .next t) : Completed s t := by
  obtain ⟨-, h⟩ := guardIn_eq_next.mp h
  split at h
  · cases h; exact .error rfl
  · cases (guardOut_eq_next.mp h).2; exact .success (resultOk_b64Text _ _)

/-- A Base64 decoder raises ExpectingString with no side effect, or builds its own table first (R107, R172). -/
theorem b64Decode_next {v : Variant} {s t : State} (h : b64Decode v s = .next t) :
    Completed s t ∨ Completed (ensureBuilt (variantTable v) s) t := by
  obtain ⟨-, h⟩ := guardIn_eq_next.mp h
  split at h
  · cases h; exact .inl (.error rfl)
  · refine .inr ?_
    dsimp only at h
    split at h
    · cases h; exact .error rfl
    · obtain ⟨-, h⟩ := guardOut_eq_next.mp h
      split at h
      · rename_i e he
        cases h
        exact .error (b64Bytes_error he)
      · cases h; exact .success (resultOk_view _)

/-- A host query detects and succeeds (R201, R202, R204). -/
theorem hostQuery_next {result : State → OutResult} {s t : State} (h : hostQuery result s = .next t) :
    t = complete (detect s) (result (detect s)) := by
  obtain ⟨-, h⟩ := guardIn_eq_next.mp h
  obtain ⟨-, h⟩ := guardOut_eq_next.mp h
  cases h
  rfl

/-- An override sets HOST_FLAG and succeeds with no result, or is illegal without the test hooks (R206, R207). -/
theorem forceFlag_next {f : HostFlag} {s t : State} (h : forceFlag f s = .next t) :
    Completed s t ∧ s.params.testHooks = .absent ∨
      t = complete { s with hostFlag := f } .none ∧ s.params.testHooks = .present := by
  unfold forceFlag at h
  split at h
  · rename_i ha
    cases h
    exact .inl ⟨.error rfl, ha⟩
  · rename_i hp
    obtain ⟨-, h⟩ := guardIn_eq_next.mp h
    cases (guardOut_eq_next.mp h).2
    exact .inr ⟨rfl, hp⟩

/-- ARRAY_TO_ENDIAN raises UnsupportedType with no side effect, or detects and succeeds (R107, R210). -/
theorem execArrayToEndian_next {ord : ByteOrder} {s t : State} (h : execArrayToEndian ord s = .next t) :
    Completed s t ∨ Completed (detect s) t := by
  obtain ⟨-, h⟩ := guardIn_eq_next.mp h
  split at h
  · cases h; exact .inl (.error rfl)
  · cases (guardOut_eq_next.mp h).2
    exact .inr (.success (resultOk_view _))

/-- ARRAY_FROM_ENDIAN raises an error with no side effect, or detects and succeeds (R107, R211). -/
theorem arrayFromEndian_next {k : ElemKind} {ord : ByteOrder} {s t : State} (hk : k ≠ .uint8clamped)
    (h : arrayFromEndian k ord s = .next t) : Completed s t ∨ Completed (detect s) t := by
  obtain ⟨-, h⟩ := guardIn_eq_next.mp h
  split at h
  · cases h; exact .inl (.error rfl)
  · rename_i b _
    split at h
    · cases h; exact .inl (.error rfl)
    · rename_i hb
      rw [Decidable.not_not, length_mask_eq_mod] at hb
      cases (guardOut_eq_next.mp h).2
      refine .inr (.success ⟨fun k' d hd => ?_, by simp⟩)
      cases hd
      exact ⟨hk, by rw [reorder_length _ _ _ _ hb, hb]⟩

/-- Every command that answers a next state has had one side effect of R36, or none, and then completed by R82 or R252. -/
theorem exec_next_cases {i : Instr} {s t : State} (h : exec i s = .next t) :
    ∃ s', SideEffect s s' ∧ Completed s' t := by
  have force : ∀ o, forceFlag (flagOfOrder o) s = .next t → ∃ s', SideEffect s s' ∧ Completed s' t := by
    intro o h
    obtain ⟨h, -⟩ | ⟨rfl, -⟩ := forceFlag_next h
    · exact ⟨s, .none, h⟩
    · exact ⟨_, .forced o, .success resultOk_none⟩
  have pick : ∀ {s'}, SideEffect s s' → Completed s t ∨ Completed s' t → ∃ s', SideEffect s s' ∧ Completed s' t := by
    rintro s' hs (h | h)
    · exact ⟨s, .none, h⟩
    · exact ⟨s', hs, h⟩
  cases i with
  | encHex => exact ⟨s, .none, execEncHex_next h⟩
  | decHex => exact pick (.built .hex) (execDecHex_next h)
  | encB64 => exact ⟨s, .none, b64Encode_next h⟩
  | decB64 => exact pick (.built _) (b64Decode_next h)
  | encB64Url => exact ⟨s, .none, b64Encode_next h⟩
  | decB64Url => exact pick (.built _) (b64Decode_next h)
  | hostIsBig =>
    rw [exec, execHostIsBig] at h
    exact ⟨detect s, .detected, by rw [hostQuery_next h]; exact .success (resultOk_bool _)⟩
  | hostIsLittle =>
    rw [exec, execHostIsLittle] at h
    exact ⟨detect s, .detected, by rw [hostQuery_next h]; exact .success (resultOk_bool _)⟩
  | hostEndianness =>
    rw [exec, execHostEndianness] at h
    exact ⟨detect s, .detected, by rw [hostQuery_next h]; exact .success (resultOk_order _)⟩
  | arrayToEndian ord => exact pick .detected (execArrayToEndian_next h)
  | arrayFromEndianInt8 ord => exact pick .detected (arrayFromEndian_next (by decide) h)
  | arrayFromEndianUint8 ord => exact pick .detected (arrayFromEndian_next (by decide) h)
  | arrayFromEndianInt16 ord => exact pick .detected (arrayFromEndian_next (by decide) h)
  | arrayFromEndianUint16 ord => exact pick .detected (arrayFromEndian_next (by decide) h)
  | arrayFromEndianInt32 ord => exact pick .detected (arrayFromEndian_next (by decide) h)
  | arrayFromEndianUint32 ord => exact pick .detected (arrayFromEndian_next (by decide) h)
  | arrayFromEndianInt64 ord => exact pick .detected (arrayFromEndian_next (by decide) h)
  | arrayFromEndianUint64 ord => exact pick .detected (arrayFromEndian_next (by decide) h)
  | arrayFromEndianFloat32 ord => exact pick .detected (arrayFromEndian_next (by decide) h)
  | arrayFromEndianFloat64 ord => exact pick .detected (arrayFromEndian_next (by decide) h)
  | testForceLittle => exact force .little h
  | testForceBig => exact force .big h

end Sys2Proof.Machine
end

