-- ==== Sys2Proof/Laws/PerInstr.lean ====
section
/-!
SUPPORT. Statements about every command as syntax, one lemma per constructor.
-/
namespace Sys2Proof.Laws.DecodeEncode

/-- The word of a command that is well formed decodes to the command (R71, R74, R80), with either setting of the hooks. -/
def Statement (i : Instr) : Prop :=
  ∀ hooks : TestHooks, i.wellFormed hooks = true → decode hooks (encode i) = .ok i

theorem encHex : Statement .encHex := by
  intro hooks _; cases hooks <;> rfl

theorem decHex : Statement .decHex := by
  intro hooks _; cases hooks <;> rfl

theorem encB64 : Statement .encB64 := by
  intro hooks _; cases hooks <;> rfl

theorem decB64 : Statement .decB64 := by
  intro hooks _; cases hooks <;> rfl

theorem encB64Url : Statement .encB64Url := by
  intro hooks _; cases hooks <;> rfl

theorem decB64Url : Statement .decB64Url := by
  intro hooks _; cases hooks <;> rfl

theorem hostIsBig : Statement .hostIsBig := by
  intro hooks _; cases hooks <;> rfl

theorem hostIsLittle : Statement .hostIsLittle := by
  intro hooks _; cases hooks <;> rfl

theorem hostEndianness : Statement .hostEndianness := by
  intro hooks _; cases hooks <;> rfl

theorem arrayToEndian (ord : ByteOrder) : Statement (.arrayToEndian ord) := by
  intro hooks _; cases hooks <;> cases ord <;> rfl

theorem arrayFromEndianInt8 (ord : ByteOrder) : Statement (.arrayFromEndianInt8 ord) := by
  intro hooks _; cases hooks <;> cases ord <;> rfl

theorem arrayFromEndianUint8 (ord : ByteOrder) : Statement (.arrayFromEndianUint8 ord) := by
  intro hooks _; cases hooks <;> cases ord <;> rfl

theorem arrayFromEndianInt16 (ord : ByteOrder) : Statement (.arrayFromEndianInt16 ord) := by
  intro hooks _; cases hooks <;> cases ord <;> rfl

theorem arrayFromEndianUint16 (ord : ByteOrder) : Statement (.arrayFromEndianUint16 ord) := by
  intro hooks _; cases hooks <;> cases ord <;> rfl

theorem arrayFromEndianInt32 (ord : ByteOrder) : Statement (.arrayFromEndianInt32 ord) := by
  intro hooks _; cases hooks <;> cases ord <;> rfl

theorem arrayFromEndianUint32 (ord : ByteOrder) : Statement (.arrayFromEndianUint32 ord) := by
  intro hooks _; cases hooks <;> cases ord <;> rfl

theorem arrayFromEndianInt64 (ord : ByteOrder) : Statement (.arrayFromEndianInt64 ord) := by
  intro hooks _; cases hooks <;> cases ord <;> rfl

theorem arrayFromEndianUint64 (ord : ByteOrder) : Statement (.arrayFromEndianUint64 ord) := by
  intro hooks _; cases hooks <;> cases ord <;> rfl

theorem arrayFromEndianFloat32 (ord : ByteOrder) : Statement (.arrayFromEndianFloat32 ord) := by
  intro hooks _; cases hooks <;> cases ord <;> rfl

theorem arrayFromEndianFloat64 (ord : ByteOrder) : Statement (.arrayFromEndianFloat64 ord) := by
  intro hooks _; cases hooks <;> cases ord <;> rfl

theorem testForceLittle : Statement .testForceLittle := by
  intro hooks h; cases hooks
  · rfl
  · cases h

theorem testForceBig : Statement .testForceBig := by
  intro hooks h; cases hooks
  · rfl
  · cases h

end Sys2Proof.Laws.DecodeEncode
end

