-- ==== Sys2Proof/Tests/Slice0.lean ====
section
/-!
SUPPORT. Small tests: command words written out from the field table of R71, the vectors of 95_test_vectors.md (one step
each), and for each statement with hypotheses a state that meets them.
-/
namespace Sys2Proof.Tests
open Sys2Proof.Machine Sys2Proof.Claims

/-! ## Well-formedness -/

theorem test_smoke_force_little_without_hooks : Instr.wellFormed .absent .testForceLittle = false := by decide

theorem test_smoke_force_big_without_hooks : Instr.wellFormed .absent .testForceBig = false := by decide

theorem test_smoke_force_with_hooks :
    Instr.wellFormed .present .testForceLittle = true ∧ Instr.wellFormed .present .testForceBig = true := by decide

/-! ## Words, bit by bit: RSV (31:13), KIND (12:9), ORD (8), OP (7:0), from R71 to R75 -/

theorem test_decode_hex :
    decode .present 0b0000000000000000000_0000_0_00000001#32 = .ok .encHex ∧
    decode .present 0b0000000000000000000_0000_0_00000010#32 = .ok .decHex := ⟨rfl, rfl⟩

theorem test_decode_base64 :
    decode .present 0b0000000000000000000_0000_0_00000011#32 = .ok .encB64 ∧
    decode .present 0b0000000000000000000_0000_0_00000100#32 = .ok .decB64 ∧
    decode .present 0b0000000000000000000_0000_0_00000101#32 = .ok .encB64Url ∧
    decode .present 0b0000000000000000000_0000_0_00000110#32 = .ok .decB64Url := ⟨rfl, rfl, rfl, rfl⟩

theorem test_decode_host_queries :
    decode .present 0b0000000000000000000_0000_0_00000111#32 = .ok .hostIsBig ∧
    decode .present 0b0000000000000000000_0000_0_00001000#32 = .ok .hostIsLittle ∧
    decode .present 0b0000000000000000000_0000_0_00001001#32 = .ok .hostEndianness := ⟨rfl, rfl, rfl⟩

theorem test_decode_array_to_endian :
    decode .present 0b0000000000000000000_0000_0_00001010#32 = .ok (.arrayToEndian .little) ∧
    decode .present 0b0000000000000000000_0000_1_00001010#32 = .ok (.arrayToEndian .big) := ⟨rfl, rfl⟩

theorem test_decode_array_from_endian_integers :
    decode .present 0b0000000000000000000_0000_0_00001011#32 = .ok (.arrayFromEndianInt8 .little) ∧
    decode .present 0b0000000000000000000_0001_1_00001011#32 = .ok (.arrayFromEndianUint8 .big) ∧
    decode .present 0b0000000000000000000_0011_0_00001011#32 = .ok (.arrayFromEndianInt16 .little) ∧
    decode .present 0b0000000000000000000_0100_1_00001011#32 = .ok (.arrayFromEndianUint16 .big) ∧
    decode .present 0b0000000000000000000_0101_0_00001011#32 = .ok (.arrayFromEndianInt32 .little) ∧
    decode .present 0b0000000000000000000_0110_1_00001011#32 = .ok (.arrayFromEndianUint32 .big) ∧
    decode .present 0b0000000000000000000_0111_0_00001011#32 = .ok (.arrayFromEndianInt64 .little) ∧
    decode .present 0b0000000000000000000_1000_1_00001011#32 = .ok (.arrayFromEndianUint64 .big) :=
  ⟨rfl, rfl, rfl, rfl, rfl, rfl, rfl, rfl⟩

theorem test_decode_array_from_endian_floats :
    decode .present 0b0000000000000000000_1001_0_00001011#32 = .ok (.arrayFromEndianFloat32 .little) ∧
    decode .present 0b0000000000000000000_1010_1_00001011#32 = .ok (.arrayFromEndianFloat64 .big) := ⟨rfl, rfl⟩

theorem test_decode_overrides :
    decode .present 0b0000000000000000000_0000_0_00001100#32 = .ok .testForceLittle ∧
    decode .present 0b0000000000000000000_0000_0_00001101#32 = .ok .testForceBig ∧
    decode .absent 0b0000000000000000000_0000_0_00001101#32 = .error .testHooksAbsent := ⟨rfl, rfl, rfl⟩

/-- One illegal word for each check of R76, at its boundary. -/
theorem test_decode_illegal :
    decode .present 0b0000000000000000001_0000_0_00000001#32 = .error .reservedBitsSet ∧
    decode .present 0b0000000000000000000_0000_0_00000000#32 = .error .reservedOpcode ∧
    decode .present 0b0000000000000000000_0000_0_00001110#32 = .error .reservedOpcode ∧
    decode .present 0b0000000000000000000_0000_1_00001001#32 = .error .orderNotAllowed ∧
    decode .present 0b0000000000000000000_0001_0_00001010#32 = .error .kindNotAllowed ∧
    decode .present 0b0000000000000000000_0010_0_00001011#32 = .error .illegalKind ∧
    decode .present 0b0000000000000000000_1011_0_00001011#32 = .error .illegalKind := ⟨rfl, rfl, rfl, rfl, rfl, rfl, rfl⟩

/-- Lines of the programs P4 and P5 of 95_test_vectors.md; `uint8clamped` is no argument of ARRAY_FROM_ENDIAN (R83). -/
theorem test_assemble :
    assemble "HOST_ENDIANNESS" = some 0x00000009#32 ∧ assemble "ARRAY_FROM_ENDIAN big, float64" = some 0x0000150B#32 ∧
    assemble "ARRAY_FROM_ENDIAN big, uint8clamped" = none := by decide

/-! ## States -/

/-- The state after reset with IN holding an operand, for a host byte order and a setting of the test hooks. -/
def start (o : ByteOrder) (hooks : TestHooks) (i : InOperand) : State :=
  { State.resetWith ⟨o, none, hooks⟩ with inp := i }

/-- A little-endian host, the hooks present. -/
def lit (i : InOperand) : State := start .little .present i

/-- The same with `MAX_LEN` set. -/
def bounded (m : Nat) (i : InOperand) : State := { State.resetWith ⟨.little, some m, .present⟩ with inp := i }

/-- A state whose next host action writes a word to CMD. -/
def commanded (o : ByteOrder) (hooks : TestHooks) (w : Word) (i : InOperand) : State :=
  { start o hooks i with host := [.writeCmd w] }

/-- A state whose next host action is `a`, with OUT holding `r`. -/
def acted (a : HostAction) (r : OutResult) : State :=
  { lit (.other .other 0#4 []) with host := [a], out := r }

/-- A little-endian host with HOST_FLAG overridden to big. -/
def overridden (i : InOperand) : State := { lit i with hostFlag := .big }

theorem overridden_within (i : InOperand) (n : Nat) : Within (overridden i) n := by
  intro m h; cases h

/-- The next state of a command. -/
def nextOf (i : Instr) (op : InOperand) : State := (nextState? (exec i (lit op))).getD (lit op)

/-- What a vector of 95_test_vectors.md states of the next state: OUT, STATUS, ERR_OFFSET, HOST_FLAG and the valid flags. -/
structure Seen where
  out : OutResult
  status : Word
  errOffset : Word
  hostFlag : HostFlag
  hexValid : Bool
  b64StdValid : Bool
  b64UrlValid : Bool
deriving DecidableEq, Repr

def seen (o : StepOutcome) : Option Seen :=
  (nextState? o).map fun t => ⟨t.out, t.status, t.errOffset, t.hostFlag, t.hexValid, t.b64StdValid, t.b64UrlValid⟩

/-! ## The vectors -/

/-- Vector H4 of 95_test_vectors.md. -/
theorem test_enc_hex_boundary_bytes :
    seen (step (commanded .little .present 0x00000001#32 (.raw 0#4 [0#8, 1#8, 127#8, 128#8, 254#8, 255#8]))) =
      some ⟨.text [48#16, 48#16, 48#16, 49#16, 55#16, 70#16, 56#16, 48#16, 70#16, 69#16, 70#16, 70#16], 0x00000010#32, 0#32, .unset, false, false, false⟩ := by
  decide

/-- Vector H10 of 95_test_vectors.md. -/
theorem test_enc_hex_partial_element :
    seen (step (commanded .little .present 0x00000001#32 (.numeric 4#4 [1#8, 2#8, 3#8]))) =
      some ⟨.none, 0x00000011#32, 0#32, .unset, false, false, false⟩ := by
  decide

/-- Vector H14 of 95_test_vectors.md. -/
theorem test_dec_hex_mixed_case :
    seen (step (commanded .little .present 0x00000002#32 (.text 0#4 [97#16, 66#16]))) =
      some ⟨.view [171#8], 0x00000010#32, 0#32, .unset, true, false, false⟩ := by
  decide

/-- Vector H20 of 95_test_vectors.md. -/
theorem test_dec_hex_bad_pair :
    seen (step (commanded .little .present 0x00000002#32 (.text 0#4 [48#16, 48#16, 71#16, 48#16]))) =
      some ⟨.none, 0x00000012#32, 2#32, .unset, true, false, false⟩ := by
  decide

/-- Vector E8 of 95_test_vectors.md. -/
theorem test_enc_b64_tail :
    seen (step (commanded .little .present 0x00000003#32 (.raw 0#4 [102#8, 111#8, 111#8, 98#8]))) =
      some ⟨.text [90#16, 109#16, 57#16, 118#16, 89#16, 103#16, 61#16, 61#16], 0x00000010#32, 0#32, .unset, false, false, false⟩ := by
  decide

/-- Vector E24 of 95_test_vectors.md. -/
theorem test_enc_b64_numeric_on_big_host :
    seen (step (commanded .big .present 0x00000003#32 (.numeric 4#4 [0#8, 1#8]))) =
      some ⟨.text [65#16, 65#16, 69#16, 61#16], 0x00000010#32, 0#32, .unset, false, false, false⟩ := by
  decide

/-- Vector B12 of 95_test_vectors.md. -/
theorem test_dec_b64_values_62_63 :
    seen (step (commanded .little .present 0x00000004#32 (.text 0#4 [43#16, 47#16, 43#16, 47#16]))) =
      some ⟨.view [251#8, 255#8, 191#8], 0x00000010#32, 0#32, .unset, false, true, false⟩ := by
  decide

/-- Vector B20 of 95_test_vectors.md. -/
theorem test_dec_b64_first_error_wins :
    seen (step (commanded .little .present 0x00000004#32 (.text 0#4 [37#16, 65#16, 65#16, 65#16, 65#16, 47#16]))) =
      some ⟨.none, 0x00000415#32, 0#32, .unset, false, true, false⟩ := by
  decide

/-- Vector E18 of 95_test_vectors.md. -/
theorem test_enc_b64url_unpadded :
    seen (step (commanded .little .present 0x00000005#32 (.raw 0#4 [251#8, 255#8]))) =
      some ⟨.text [45#16, 95#16, 56#16], 0x00000010#32, 0#32, .unset, false, false, false⟩ := by
  decide

/-- Vector E22b of 95_test_vectors.md. -/
theorem test_enc_b64url_not_a_buffer :
    seen (step (commanded .little .present 0x00000005#32 (.other .other 0#4 []))) =
      some ⟨.none, 0x00000011#32, 0#32, .unset, false, false, false⟩ := by
  decide

/-- Vector B31 of 95_test_vectors.md. -/
theorem test_dec_b64url_strips_padding :
    seen (step (commanded .little .present 0x00000006#32 (.text 0#4 [90#16, 103#16, 61#16, 61#16]))) =
      some ⟨.view [102#8], 0x00000010#32, 0#32, .unset, false, false, true⟩ := by
  decide

/-- Vector B32 of 95_test_vectors.md. -/
theorem test_dec_b64url_mangled_padding :
    seen (step (commanded .little .present 0x00000006#32 (.text 0#4 [90#16, 104#16]))) =
      some ⟨.none, 0x00000016#32, 1#32, .unset, false, false, true⟩ := by
  decide

/-- Vector N4 of 95_test_vectors.md. -/
theorem test_host_is_big_on_big :
    seen (step (commanded .big .present 0x00000007#32 (.other .other 0#4 []))) =
      some ⟨.bool true, 0x00000010#32, 0#32, .big, false, false, false⟩ := by
  decide

/-- Vector N1 of 95_test_vectors.md. -/
theorem test_host_is_big_on_little :
    seen (step (commanded .little .present 0x00000007#32 (.other .other 0#4 []))) =
      some ⟨.bool false, 0x00000010#32, 0#32, .little, false, false, false⟩ := by
  decide

/-- Vector N2 of 95_test_vectors.md. -/
theorem test_host_is_little_on_little :
    seen (step (commanded .little .present 0x00000008#32 (.other .other 0#4 []))) =
      some ⟨.bool true, 0x00000010#32, 0#32, .little, false, false, false⟩ := by
  decide

/-- Vector N5 of 95_test_vectors.md. -/
theorem test_host_is_little_on_big :
    seen (step (commanded .big .present 0x00000008#32 (.other .other 0#4 []))) =
      some ⟨.bool false, 0x00000010#32, 0#32, .big, false, false, false⟩ := by
  decide

/-- Vector N3 of 95_test_vectors.md. -/
theorem test_host_endianness_little :
    seen (step (commanded .little .present 0x00000009#32 (.other .other 0#4 []))) =
      some ⟨.order .little, 0x00000010#32, 0#32, .little, false, false, false⟩ := by
  decide

/-- Vector N6 of 95_test_vectors.md. -/
theorem test_host_endianness_big :
    seen (step (commanded .big .present 0x00000009#32 (.other .other 0#4 []))) =
      some ⟨.order .big, 0x00000010#32, 0#32, .big, false, false, false⟩ := by
  decide

/-- Vector N7 of 95_test_vectors.md. -/
theorem test_array_to_endian_swaps :
    seen (step (commanded .little .present 0x0000010A#32 (.numeric 4#4 [1#8, 0#8, 2#8, 0#8]))) =
      some ⟨.view [0#8, 1#8, 0#8, 2#8], 0x00000010#32, 0#32, .little, false, false, false⟩ := by
  decide

/-- Vector N8b of 95_test_vectors.md. -/
theorem test_array_to_endian_little_on_big_host :
    seen (step (commanded .big .present 0x0000000A#32 (.numeric 4#4 [0#8, 1#8, 0#8, 2#8]))) =
      some ⟨.view [1#8, 0#8, 2#8, 0#8], 0x00000010#32, 0#32, .big, false, false, false⟩ := by
  decide

/-- Vector N28 of 95_test_vectors.md. -/
theorem test_array_from_endian_int8_empty :
    seen (step (commanded .little .present 0x0000000B#32 (.view 0#4 []))) =
      some ⟨.numeric .int8 [], 0x00000010#32, 0#32, .little, false, false, false⟩ := by
  decide

/-- Vector N27 of 95_test_vectors.md. -/
theorem test_array_from_endian_uint8_any_length :
    seen (step (commanded .little .present 0x0000020B#32 (.view 0#4 [9#8, 8#8, 7#8]))) =
      some ⟨.numeric .uint8 [9#8, 8#8, 7#8], 0x00000010#32, 0#32, .little, false, false, false⟩ := by
  decide

/-- Vector N20 of 95_test_vectors.md. -/
theorem test_array_from_endian_uint16_big_host :
    seen (step (commanded .big .present 0x0000080B#32 (.view 0#4 [0#8, 1#8]))) =
      some ⟨.numeric .uint16 [1#8, 0#8], 0x00000010#32, 0#32, .big, false, false, false⟩ := by
  decide

/-- Vector N22 of 95_test_vectors.md. -/
theorem test_array_from_endian_uint16_incomplete :
    seen (step (commanded .little .present 0x0000080B#32 (.view 0#4 [1#8]))) =
      some ⟨.none, 0x00000017#32, 1#32, .unset, false, false, false⟩ := by
  decide

/-- Vector N25 of 95_test_vectors.md. -/
theorem test_array_from_endian_int32 :
    seen (step (commanded .little .present 0x00000B0B#32 (.raw 0#4 [18#8, 52#8, 86#8, 120#8]))) =
      some ⟨.numeric .int32 [120#8, 86#8, 52#8, 18#8], 0x00000010#32, 0#32, .little, false, false, false⟩ := by
  decide

/-- Vector N24 of 95_test_vectors.md. -/
theorem test_array_from_endian_uint32_incomplete :
    seen (step (commanded .little .present 0x00000C0B#32 (.view 0#4 [1#8, 2#8, 3#8, 4#8, 5#8]))) =
      some ⟨.none, 0x00000017#32, 5#32, .unset, false, false, false⟩ := by
  decide

/-- Vector N29 of 95_test_vectors.md. -/
theorem test_array_from_endian_int64_incomplete :
    seen (step (commanded .little .present 0x00000E0B#32 (.view 0#4 [1#8, 2#8, 3#8, 4#8, 5#8, 6#8, 7#8]))) =
      some ⟨.none, 0x00000017#32, 7#32, .unset, false, false, false⟩ := by
  decide

/-- Vector N26 of 95_test_vectors.md. -/
theorem test_array_from_endian_float64 :
    seen (step (commanded .little .present 0x0000150B#32 (.raw 0#4 [63#8, 240#8, 0#8, 0#8, 0#8, 0#8, 0#8, 0#8]))) =
      some ⟨.numeric .float64 [0#8, 0#8, 0#8, 0#8, 0#8, 0#8, 240#8, 63#8], 0x00000010#32, 0#32, .little, false, false, false⟩ := by
  decide

/-- Vector N33 of 95_test_vectors.md. -/
theorem test_test_force_little :
    seen (step (commanded .little .present 0x0000000C#32 (.other .other 0#4 []))) =
      some ⟨.none, 0x00000010#32, 0#32, .little, false, false, false⟩ := by
  decide

/-- Vector N34 of 95_test_vectors.md. -/
theorem test_test_force_big :
    seen (step (commanded .little .present 0x0000000D#32 (.other .other 0#4 []))) =
      some ⟨.none, 0x00000010#32, 0#32, .big, false, false, false⟩ := by
  decide

/-- Vector N35 of 95_test_vectors.md. -/
theorem test_test_force_little_absent :
    seen (step (commanded .little .absent 0x0000000C#32 (.other .other 0#4 []))) =
      some ⟨.none, 0x00000018#32, 0#32, .unset, false, false, false⟩ := by
  decide

/-- Vector N36 of 95_test_vectors.md. -/
theorem test_test_force_big_absent :
    seen (step (commanded .little .absent 0x0000000D#32 (.other .other 0#4 []))) =
      some ⟨.none, 0x00000018#32, 0#32, .unset, false, false, false⟩ := by
  decide

/-- Vector I4 of 95_test_vectors.md. -/
theorem test_illegal_rsv :
    seen (step (commanded .little .present 0x00002001#32 (.text 0#4 [65#16, 65#16, 61#16, 61#16]))) =
      some ⟨.none, 0x00000018#32, 0#32, .unset, false, false, false⟩ := by
  decide

/-- Vector I8 of 95_test_vectors.md. -/
theorem test_illegal_kind_uint8clamped :
    seen (step (commanded .little .present 0x0000040B#32 (.text 0#4 [65#16, 65#16, 61#16, 61#16]))) =
      some ⟨.none, 0x00000018#32, 0#32, .unset, false, false, false⟩ := by
  decide

/-- Vector I11 of 95_test_vectors.md. -/
theorem test_illegal_word_builds_no_table :
    seen (step (commanded .little .present 0x80000004#32 (.text 0#4 [65#16, 65#16, 61#16, 61#16]))) =
      some ⟨.none, 0x00000018#32, 0#32, .unset, false, false, false⟩ := by
  decide

/-- The rule of R211 with R208: an 8-byte element from big on a little-endian host. -/
theorem test_array_from_endian_uint64 :
    seen (step (commanded .little .present 0x0000110B#32 (.raw 0#4 [1#8, 2#8, 3#8, 4#8, 5#8, 6#8, 7#8, 8#8]))) =
      some ⟨.numeric .uint64 [8#8, 7#8, 6#8, 5#8, 4#8, 3#8, 2#8, 1#8], 0x00000010#32, 0#32, .little, false, false, false⟩ := by
  decide

/-- The rule of R211 with R212: a float32 from big, its bits kept. -/
theorem test_array_from_endian_float32 :
    seen (step (commanded .little .present 0x0000130B#32 (.raw 0#4 [0x7F#8, 0xC0#8, 0#8, 1#8]))) =
      some ⟨.numeric .float32 [1#8, 0#8, 0xC0#8, 0x7F#8], 0x00000010#32, 0#32, .little, false, false, false⟩ := by
  decide

/-- The rule of R211: an int16 of an odd number of bytes is IncompleteByteSequence, before detection. -/
theorem test_array_from_endian_int16_incomplete :
    seen (step (commanded .little .present 0x0000060B#32 (.raw 0#4 [1#8, 2#8, 3#8]))) =
      some ⟨.none, 0x00000017#32, 3#32, .unset, false, false, false⟩ := by
  decide

/-! ## The host's side -/

theorem test_set_in_numeric :
    (nextState? (step (acted (.setIn 0x00000044#32 [1#16, 0#16]) .none))).map (·.inp) = some (.numeric 4#4 [1#8, 0#8]) := by
  decide

theorem test_set_in_directives :
    (nextState? (step (acted (inArrayDirective .uint8clamped [9#8]) .none))).map (·.inp) = some (.numeric 2#4 [9#8]) ∧
    (nextState? (step (acted (inTextDirective [0x30#16]) .none))).map (·.inp) = some (.text 0#4 [0x30#16]) := by
  decide

theorem test_set_in_too_wide : step (acted (.setIn 0x00000001#32 [256#16]) .none) = .refused .setInCannotBeSent := rfl

theorem test_read_out_desc :
    (nextState? (step (acted (.readReg 0x14) (.numeric .uint16 [1#8, 0#8])))).map (·.replies) =
      some [.reg 0x14 0x00000044#32] := by
  decide

theorem test_read_out_none : step (acted .readOut .none) = .fault .readOutWhileNone := rfl

theorem test_move_order :
    (nextState? (step (acted .moveOutToIn (.order .big)))).map (·.inp) = some (.view 0#4 [1#8]) := by
  decide

theorem test_reset_clears_override :
    (nextState? (step { acted .reset (.bool true) with hostFlag := .big })).map (fun t => (t.hostFlag, t.out)) =
      some (.unset, .none) := by
  decide

theorem test_bounded_encode : exec .encHex (bounded 1 (.raw 0#4 [0#8])) = .refused .resultBeyondMaxLen := rfl

theorem test_bounded_operand : exec .decHex (bounded 1 (.text 0#4 [0x30#16, 0x30#16])) = .refused .operandBeyondMaxLen := rfl

theorem test_fetch_word :
    (step (State.reset.withFetchWord 32 0x0000000D)) = exec .testForceBig { State.reset with cmd := 0x0000000D#32 } := rfl

/-! ## Witnesses: a state and operands that meet the hypotheses of each statement -/

theorem start_inv (o : ByteOrder) (hooks : TestHooks) (i : InOperand) : (start o hooks i).Inv := by
  constructor <;> simp [start, State.resetWith, statusErr, statusRun]

theorem bounded_inv (m : Nat) (i : InOperand) : (bounded m i).Inv := by
  constructor <;> simp [bounded, State.resetWith, statusErr, statusRun]

theorem start_within (o : ByteOrder) (hooks : TestHooks) (i : InOperand) (n : Nat) : Within (start o hooks i) n := by
  intro m h; cases h

theorem bounded_within {m n : Nat} (i : InOperand) (h : n ≤ m) : Within (bounded m i) n := by
  intro k hk; cases hk; exact h

theorem bounded_not_within {m n : Nat} (i : InOperand) (h : m < n) : ¬ Within (bounded m i) n :=
  fun hw => absurd (hw m rfl) (Nat.not_le_of_lt h)

theorem text_is_no_buffer (ek : BitVec 4) (t : List TextUnit) (b : List Byte) : ¬ IsBuffer (.text ek t) b := by
  rintro (⟨_, h⟩ | ⟨_, h⟩ | ⟨_, h, _⟩) <;> cases h

theorem raw_is_no_text (ek : BitVec 4) (b : List Byte) (t : List TextUnit) : ¬ IsText (.raw ek b) t := by
  rintro ⟨_, h⟩; cases h

/-- A NUMERIC operand of a reserved kind, and one with a partial element, are no buffers. -/
theorem witness_ill_formed_numeric (b : List Byte) :
    ¬ IsBuffer (.numeric 11#4 [1#8]) b ∧ ¬ IsBuffer (.numeric 4#4 [1#8, 2#8, 3#8]) b := by
  constructor <;> rintro (⟨_, h⟩ | ⟨_, h⟩ | ⟨_, h, h1, h2⟩) <;> cases h <;> revert h1 h2 <;> decide

/-- The last legal kind, float64, with whole elements. -/
theorem witness_numeric : IsNumeric (.numeric 10#4 [1#8, 2#8, 3#8, 4#8, 5#8, 6#8, 7#8, 8#8]) 10#4
    [1#8, 2#8, 3#8, 4#8, 5#8, 6#8, 7#8, 8#8] := ⟨rfl, by decide, by decide⟩

theorem witness_step_runs_decoded :
    ∃ (s : State) (w : Word) (rest : List HostAction) (i : Instr), s.host = .writeCmd w :: rest ∧ decode s.params.testHooks w = .ok i :=
  ⟨commanded .little .present 0x0000150B#32 (.raw 0#4 []), _, _, .arrayFromEndianFloat64 .big, rfl, rfl⟩

/-- Each condition of R76 at its boundary. -/
theorem witness_illegal_fields :
    IllegalFields .present 0 ∧ IllegalFields .present 0x0E ∧ IllegalFields .present 0x2001 ∧ IllegalFields .present 0x109 ∧
    IllegalFields .present 0x20A ∧ IllegalFields .present 0x40B ∧ IllegalFields .present 0x160B ∧
    IllegalFields .absent 0x0C ∧ IllegalFields .absent 0x0D := by
  refine ⟨?_, ?_, ?_, ?_, ?_, ?_, ?_, ?_, ?_⟩ <;> simp [IllegalFields]

theorem witness_illegal_word :
    ∃ (s : State) (w : Word) (rest : List HostAction), s.host = .writeCmd w :: rest ∧ IllegalFields s.params.testHooks w.toNat :=
  ⟨commanded .little .present 0#32 (.raw 0#4 []), _, _, rfl, witness_illegal_fields.1⟩

theorem witness_step_keeps_inv : ∃ s t : State, s.Inv ∧ step s = .next t := ⟨lit (.raw 0#4 []), _, start_inv _ _ _, rfl⟩

theorem witness_unbounded : ∃ s : State, s.params.maxLen = none := ⟨lit (.raw 0#4 []), rfl⟩

/-- Each refusal clause at the first length beyond `MAX_LEN`, and a length just within. -/
theorem witness_beyond_max_len :
    ¬ Within (bounded 1 (.raw 0#4 [1#8, 2#8])) (inLength (.raw 0#4 [1#8, 2#8])) ∧
    (IsBuffer (.raw 0#4 [1#8]) [1#8] ∧ ¬ Within (bounded 1 (.raw 0#4 [1#8])) (2 * 1)) ∧
    (IsBuffer (.raw 0#4 [1#8]) [1#8] ∧ ¬ Within (bounded 3 (.raw 0#4 [1#8])) (4 * ((1 + 2) / 3))) ∧
    (IsBuffer (.raw 0#4 [1#8]) [1#8] ∧ ¬ Within (bounded 1 (.raw 0#4 [1#8])) ((4 * 1 + 2) / 3)) ∧
    ¬ Within (bounded 0 (.raw 0#4 [])) 1 ∧ Within (bounded 2 (.raw 0#4 [1#8])) (2 * 1) :=
  ⟨bounded_not_within _ (by decide), ⟨.inl ⟨_, rfl⟩, bounded_not_within _ (by decide)⟩,
    ⟨.inl ⟨_, rfl⟩, bounded_not_within _ (by decide)⟩, ⟨.inl ⟨_, rfl⟩, bounded_not_within _ (by decide)⟩,
    bounded_not_within _ (by decide), bounded_within _ (by decide)⟩

theorem witness_command_answers_next : ∃ (i : Instr) (s t : State), exec i s = .next t :=
  ⟨.decHex, lit (.text 0#4 []), _, rfl⟩

theorem witness_enc_hex :
    (∃ (s : State) (b : List Byte), IsBuffer s.inp b ∧ Within s (2 * b.length) ∧ b.length = 1) ∧
    ∃ s : State, (∀ b, ¬ IsBuffer s.inp b) ∧ Within s (inLength s.inp) :=
  ⟨⟨bounded 2 (.view 0#4 [1#8]), _, .inr (.inl ⟨_, rfl⟩), bounded_within _ (by decide), rfl⟩,
    lit (.text 0#4 [0x30#16]), text_is_no_buffer _ _, start_within _ _ _ _⟩

/-- An operand that is no text, an odd text, a first bad unit in the second pair, and a text of digits of every range. -/
theorem witness_dec_hex :
    (∃ s : State, s.Inv ∧ (∀ t, ¬ IsText s.inp t) ∧ Within s (inLength s.inp)) ∧
    (∃ (s : State) (t : List TextUnit), s.Inv ∧ IsText s.inp t ∧ Within s t.length ∧ t.length = 1) ∧
    (∃ (s : State) (t : List TextUnit), s.Inv ∧ IsText s.inp t ∧ Within s t.length ∧ t.length % 2 = 0 ∧ FirstBadAt hexValue t 3) ∧
    ∃ (s : State) (t : List TextUnit), s.Inv ∧ IsText s.inp t ∧ Within s t.length ∧ t.length % 2 = 0 ∧ t.map hexValue = [0, 9, 10, 15].map some :=
  ⟨⟨lit (.raw 0#4 []), start_inv _ _ _, raw_is_no_text _ _, start_within _ _ _ _⟩,
    ⟨bounded 1 (.text 0#4 [0x30#16]), _, bounded_inv _ _, ⟨_, rfl⟩, bounded_within _ (by decide), rfl⟩,
    ⟨lit (.text 0#4 [0x30#16, 0x30#16, 0x30#16, 0x47#16]), _, start_inv _ _ _, ⟨_, rfl⟩, start_within _ _ _ _, rfl,
      ⟨_, rfl, rfl⟩, by simp [hexValue]⟩,
    ⟨lit (.text 0#4 [0x30#16, 0x39#16, 0x41#16, 0x66#16]), _, start_inv _ _ _, ⟨_, rfl⟩, start_within _ _ _ _, rfl, rfl⟩⟩

theorem witness_hex_round_trip :
    ∃ (s t s' : State) (b : List Byte) (u : List TextUnit), IsBuffer s.inp b ∧ exec .encHex s = .next t ∧ t.out = .text u ∧ s'.Inv ∧ IsText s'.inp u ∧
      Within s' u.length ∧ b = [0xAB#8] :=
  ⟨lit (.raw 0#4 [0xAB#8]), _, lit (.text 0#4 [0x41#16, 0x42#16]), _, _, .inl ⟨_, rfl⟩, rfl, rfl, start_inv _ _ _,
    ⟨_, rfl⟩, start_within _ _ _ _, rfl⟩

/-- Each decoder of R153 answering next on a text and on an operand that is none. -/
theorem witness_decoders_answer_next :
    (∃ (s t : State) (x : List TextUnit), exec .decHex s = .next t ∧ IsText s.inp x) ∧ (∃ (s t : State), exec .decHex s = .next t ∧ ∀ x, ¬ IsText s.inp x) ∧
    (∃ (s t : State) (x : List TextUnit), exec .decB64 s = .next t ∧ IsText s.inp x) ∧ (∃ (s t : State), exec .decB64 s = .next t ∧ ∀ x, ¬ IsText s.inp x) ∧
    (∃ (s t : State) (x : List TextUnit), exec .decB64Url s = .next t ∧ IsText s.inp x) ∧
    ∃ (s t : State), exec .decB64Url s = .next t ∧ ∀ x, ¬ IsText s.inp x :=
  ⟨⟨lit (.text 0#4 []), _, _, rfl, _, rfl⟩, ⟨lit (.raw 0#4 []), _, rfl, raw_is_no_text _ _⟩,
    ⟨lit (.text 0#4 []), _, _, rfl, _, rfl⟩, ⟨lit (.raw 0#4 []), _, rfl, raw_is_no_text _ _⟩,
    ⟨lit (.text 0#4 []), _, _, rfl, _, rfl⟩, ⟨lit (.raw 0#4 []), _, rfl, raw_is_no_text _ _⟩⟩

/-- A one-byte input with its padding exactly at `MAX_LEN`, and a text. -/
theorem witness_enc_base64 :
    (∃ (s : State) (b : List Byte), IsBuffer s.inp b ∧ Within s b.length ∧
      Within s (b64Chars .std b ++ b64Padding .std b.length).length ∧ b = [0xFF#8]) ∧
    (∃ (s : State) (b : List Byte), IsBuffer s.inp b ∧ Within s b.length ∧
      Within s (b64Chars .url b ++ b64Padding .url b.length).length ∧ b = [0xFF#8]) ∧
    ∃ s : State, (∀ b, ¬ IsBuffer s.inp b) ∧ Within s (inLength s.inp) :=
  ⟨⟨bounded 4 (.raw 0#4 [0xFF#8]), _, .inl ⟨_, rfl⟩, bounded_within _ (by decide), bounded_within _ (by decide), rfl⟩,
    ⟨bounded 2 (.raw 0#4 [0xFF#8]), _, .inl ⟨_, rfl⟩, bounded_within _ (by decide), bounded_within _ (by decide), rfl⟩,
    lit (.text 0#4 []), text_is_no_buffer _ _, start_within _ _ _ _⟩

/-- The clauses of a decode: an operand that is no text; stripped length 1; a first bad unit in the tail after a full
group; a tail with a fill bit set; and an accepted text, its stripped length 2. -/
theorem witness_dec_base64 (v : Variant) :
    (∃ s : State, s.Inv ∧ (∀ t, ¬ IsText s.inp t) ∧ Within s (inLength s.inp)) ∧
    (∃ (s : State) (t : List TextUnit) (u : List TextUnit), s.Inv ∧ IsText s.inp t ∧ Within s t.length ∧ IsStripped t u ∧ u.length % 4 = 1) ∧
    (∃ (s : State) (t : List TextUnit) (u : List TextUnit), s.Inv ∧ IsText s.inp t ∧ Within s t.length ∧ IsStripped t u ∧ u.length % 4 ≠ 1 ∧
      FirstBadAt (b64Value v) u 4) ∧
    (∃ (s : State) (t : List TextUnit) (u : List TextUnit), s.Inv ∧ IsText s.inp t ∧ Within s t.length ∧ IsStripped t u ∧ u.length % 4 ≠ 1 ∧
      u.map (b64Value v) = [0, 1].map some ∧ ¬ FillBitsZero [0, 1]) ∧
    ∃ (s : State) (t : List TextUnit) (u : List TextUnit), s.Inv ∧ IsText s.inp t ∧ Within s t.length ∧ IsStripped t u ∧ u.length % 4 ≠ 1 ∧
      u.map (b64Value v) = [0, 16].map some ∧ FillBitsZero [0, 16] :=
  ⟨⟨lit (.raw 0#4 []), start_inv _ _ _, raw_is_no_text _ _, start_within _ _ _ _⟩,
    ⟨lit (.text 0#4 [0x41#16, 0x3D#16]), _, [0x41#16], start_inv _ _ _, ⟨_, rfl⟩, start_within _ _ _ _,
      ⟨⟨1, rfl⟩, by decide⟩, rfl⟩,
    ⟨lit (.text 0#4 [0x41#16, 0x41#16, 0x41#16, 0x41#16, 0x25#16, 0x41#16]), _,
      [0x41#16, 0x41#16, 0x41#16, 0x41#16, 0x25#16, 0x41#16], start_inv _ _ _, ⟨_, rfl⟩,
      start_within _ _ _ _, ⟨⟨0, rfl⟩, by decide⟩, by decide, ⟨0x25#16, rfl, by cases v <;> rfl⟩,
      by simp only [List.take, List.mem_cons]; cases v <;> simp <;> decide⟩,
    ⟨lit (.text 0#4 [0x41#16, 0x42#16, 0x3D#16, 0x3D#16]), _, [0x41#16, 0x42#16], start_inv _ _ _, ⟨_, rfl⟩,
      start_within _ _ _ _, ⟨⟨2, rfl⟩, by decide⟩, by decide, by cases v <;> rfl, by simp [FillBitsZero]⟩,
    ⟨lit (.text 0#4 [0x41#16, 0x51#16]), _, [0x41#16, 0x51#16], start_inv _ _ _, ⟨_, rfl⟩, start_within _ _ _ _,
      ⟨⟨0, rfl⟩, by decide⟩, by decide, by cases v <;> rfl, by simp [FillBitsZero]⟩⟩

/-- Encoding then decoding, for both variants. -/
theorem witness_base64_round_trip :
    (∃ (s t s' : State) (b : List Byte) (u : List TextUnit), IsBuffer s.inp b ∧ t.out = .text u ∧ s'.Inv ∧ IsText s'.inp u ∧ Within s' u.length ∧
      exec .encB64 s = .next t ∧ b = [0#8]) ∧
    ∃ (s t s' : State) (b : List Byte) (u : List TextUnit), IsBuffer s.inp b ∧ t.out = .text u ∧ s'.Inv ∧ IsText s'.inp u ∧ Within s' u.length ∧
      exec .encB64Url s = .next t ∧ b = [0#8] :=
  ⟨⟨lit (.raw 0#4 [0#8]), nextOf .encB64 (.raw 0#4 [0#8]), lit (.text 0#4 [0x41#16, 0x41#16, 0x3D#16, 0x3D#16]), _, _,
      .inl ⟨_, rfl⟩, rfl, start_inv _ _ _, ⟨_, rfl⟩, start_within _ _ _ _, rfl, rfl⟩,
    ⟨lit (.raw 0#4 [0#8]), nextOf .encB64Url (.raw 0#4 [0#8]), lit (.text 0#4 [0x41#16, 0x41#16]), _, _,
      .inl ⟨_, rfl⟩, rfl, start_inv _ _ _, ⟨_, rfl⟩, start_within _ _ _ _, rfl, rfl⟩⟩

theorem witness_trailing_padding :
    ∃ t t', exec .decB64 (lit (.text 0#4 [0x3D#16])) = .next t ∧
      exec .decB64 (lit (.text 0#4 ([0x3D#16] ++ List.replicate 2 0x3D#16))) = .next t' :=
  ⟨_, _, rfl, rfl⟩

/-- An accepted text and the bytes it gives, for both variants, with `MAX_LEN` exactly the length of the output. -/
theorem witness_reencode :
    (∃ (s t s' : State) (b : List Byte) (x : List TextUnit) (u : List TextUnit), s.Inv ∧ IsText s.inp x ∧ IsStripped x u ∧ t.out = .view b ∧ IsBuffer s'.inp b ∧
      exec .decB64 s = .next t ∧ Within s' (u ++ b64Padding .std b.length).length ∧ s'.params.maxLen = some 4 ∧
      u = [0x41#16, 0x51#16]) ∧
    ∃ (s t s' : State) (b : List Byte) (x : List TextUnit) (u : List TextUnit), s.Inv ∧ IsText s.inp x ∧ IsStripped x u ∧ t.out = .view b ∧ IsBuffer s'.inp b ∧
      exec .decB64Url s = .next t ∧ Within s' u.length ∧ s'.params.maxLen = some 2 ∧ u = [0x41#16, 0x51#16] :=
  ⟨⟨lit (.text 0#4 [0x41#16, 0x51#16]), nextOf .decB64 (.text 0#4 [0x41#16, 0x51#16]), bounded 4 (.raw 0#4 [1#8]), [1#8], _,
      [0x41#16, 0x51#16], start_inv _ _ _, ⟨_, rfl⟩, ⟨⟨0, rfl⟩, by decide⟩, by decide, .inl ⟨_, rfl⟩,
      rfl, bounded_within _ (by decide), rfl, rfl⟩,
    ⟨lit (.text 0#4 [0x41#16, 0x51#16]), nextOf .decB64Url (.text 0#4 [0x41#16, 0x51#16]), bounded 2 (.raw 0#4 [1#8]), [1#8],
      _, [0x41#16, 0x51#16], start_inv _ _ _, ⟨_, rfl⟩, ⟨⟨0, rfl⟩, by decide⟩, by decide, .inl ⟨_, rfl⟩,
      rfl, bounded_within _ (by decide), rfl, rfl⟩⟩

theorem witness_host_queries : ∃ s : State, Within s (inLength s.inp) ∧ Within s 1 ∧ s.params.maxLen = some 1 :=
  ⟨bounded 1 (.other .other 0#4 []), bounded_within _ (by decide), bounded_within _ (by decide), rfl⟩

theorem witness_overrides :
    (∃ s : State, s.params.testHooks = .present ∧ Within s (inLength s.inp)) ∧ ∃ s : State, s.params.testHooks = .absent :=
  ⟨⟨lit (.raw 0#4 []), rfl, start_within _ _ _ _⟩, start .big .absent (.raw 0#4 []), rfl⟩

theorem witness_array_to_endian :
    (∃ (s : State) (ek : BitVec 4) (b : List Byte), IsNumeric s.inp ek b ∧ Within s b.length ∧ ek = 10#4) ∧
    ∃ s : State, (∀ ek b, ¬ IsNumeric s.inp ek b) ∧ Within s (inLength s.inp) :=
  ⟨⟨lit _, _, _, witness_numeric, start_within _ _ _ _, rfl⟩,
    lit (.raw 0#4 []), fun _ _ h => (nomatch h.1), start_within _ _ _ _⟩

/-- A whole number of float64 elements, one byte too few, and an operand that is no buffer. -/
theorem witness_array_from_endian :
    (∃ (s : State) (b : List Byte) (i : Instr), fromEndianCommand .float64 .big = some i ∧ IsBuffer s.inp b ∧ Within s b.length ∧
      b.length % widthOf .float64 = 0 ∧ b ≠ []) ∧
    (∃ (s : State) (b : List Byte) (i : Instr), fromEndianCommand .float64 .big = some i ∧ IsBuffer s.inp b ∧ Within s b.length ∧
      b.length % widthOf .float64 ≠ 0) ∧
    ∃ (s : State) (i : Instr), fromEndianCommand .int8 .little = some i ∧ (∀ b, ¬ IsBuffer s.inp b) ∧ Within s (inLength s.inp) :=
  ⟨⟨lit (.raw 0#4 [1#8, 2#8, 3#8, 4#8, 5#8, 6#8, 7#8, 8#8]), _, _, rfl, .inl ⟨_, rfl⟩, start_within _ _ _ _, by decide,
      by decide⟩,
    ⟨lit (.raw 0#4 [1#8, 2#8, 3#8, 4#8, 5#8, 6#8, 7#8]), _, _, rfl, .inl ⟨_, rfl⟩, start_within _ _ _ _, by decide⟩,
    lit (.text 0#4 []), _, rfl, text_is_no_buffer _ _, start_within _ _ _ _⟩

theorem witness_from_undoes_to :
    ∃ (s t s' : State) (i : Instr) (b c : List Byte), IsNumeric s.inp ElemKind.uint16.code b ∧ exec (.arrayToEndian .big) s = .next t ∧ t.out = .view c ∧
      fromEndianCommand .uint16 .big = some i ∧ IsBuffer s'.inp c ∧ orderSeen s' = orderSeen s ∧ Within s' c.length ∧
      b = [1#8, 0#8] :=
  ⟨lit (.numeric 4#4 [1#8, 0#8]), _, lit (.view 0#4 [0#8, 1#8]), _, _, _, ⟨rfl, by decide, by decide⟩, rfl, rfl, rfl,
    .inr (.inl ⟨_, rfl⟩), rfl, start_within _ _ _ _, rfl⟩

/-- The value 1 as a uint16 in host order on each host, without and with an override; the value 1 read from big. -/
theorem witness_element_values :
    (∃ s : State, s.inp = .numeric ElemKind.uint16.code ([1].flatMap (elementBytes s.params.hostByteOrder (widthOf .uint16))) ∧
      Within s (1 * widthOf .uint16) ∧ s.NoOverride ∧ s.params.hostByteOrder = .big) ∧
    (∃ s : State, s.inp = .numeric ElemKind.uint16.code ([1].flatMap (elementBytes s.params.hostByteOrder (widthOf .uint16))) ∧
      Within s (1 * widthOf .uint16) ∧ s.hostFlag = flagOfOrder (opposite s.params.hostByteOrder)) ∧
    (∃ s : State, IsBuffer s.inp ([1].flatMap (elementBytes .big (widthOf .uint16))) ∧ Within s (1 * widthOf .uint16) ∧
      s.NoOverride) ∧
    ∃ s : State, IsBuffer s.inp ([1].flatMap (elementBytes .big (widthOf .uint16))) ∧ Within s (1 * widthOf .uint16) ∧
      s.hostFlag = flagOfOrder (opposite s.params.hostByteOrder) :=
  ⟨⟨start .big .present (.numeric 4#4 [0#8, 1#8]), rfl, start_within _ _ _ _, .inl rfl, rfl⟩,
    ⟨overridden (.numeric 4#4 [1#8, 0#8]), rfl, overridden_within _ _, rfl⟩,
    ⟨lit (.raw 0#4 [0#8, 1#8]), .inl ⟨0#4, rfl⟩, start_within _ _ _ _, .inl rfl⟩,
    ⟨overridden (.raw 0#4 [0#8, 1#8]), .inl ⟨0#4, rfl⟩, overridden_within _ _, rfl⟩⟩

theorem witness_only_reset_undoes :
    ∃ s t : State, step s = .next t ∧ s.host.head? ≠ some .reset ∧ s.hostFlag ≠ .unset ∧
      (∀ w, s.host.head? = some (.writeCmd w) ∨ s.host.head? = some (.writeReg 0 w) →
        w ≠ 0x0000000C#32 ∧ w ≠ 0x0000000D#32) ∧ s.host ≠ [] :=
  ⟨{ overridden (.raw 0#4 []) with host := [.writeCmd 9#32] }, _, rfl, by decide, by decide,
    fun _ h => (by rcases h with h | h <;> cases h; decide), by decide⟩

theorem witness_no_override :
    ∃ s t : State, step s = .next t ∧ s.NoOverride ∧
      (∀ w, s.host.head? = some (.writeCmd w) → w ≠ 0x0000000C#32 ∧ w ≠ 0x0000000D#32) ∧
      (∀ v, s.host.head? = some (.writeReg 0 v) → v ≠ 0x0000000C#32 ∧ v ≠ 0x0000000D#32) ∧ s.host ≠ [] :=
  ⟨commanded .little .present 7#32 (.other .other 0#4 []), _, rfl, .inl rfl,
    fun _ h => (by cases h; decide), fun _ h => (nomatch h), by decide⟩

/-- Two states that differ in a built table, a valid flag, the scratch and an earlier result. -/
theorem witness_hidden_state :
    ∃ s s' : State, s.Inv ∧ s'.Inv ∧ s'.params = s.params ∧ s'.cmd = s.cmd ∧ s'.inp = s.inp ∧ orderSeen s' = orderSeen s ∧
      s'.hexValid ≠ s.hexValid ∧ s'.out ≠ s.out ∧ s'.hostFlag ≠ s.hostFlag :=
  ⟨lit (.text 0#4 []), { hexBuilt (lit (.text 0#4 [])) with out := .view [], hostFlag := .little, status := 0x00000010#32 },
    start_inv _ _ _, by constructor <;> simp [hexBuilt, lit, start, State.resetWith, statusErr, statusRun, statusValid], rfl, rfl,
    rfl, rfl, by decide, by decide, by decide⟩

theorem witness_other_tag : ∃ t, exec .encHex { lit (.raw 0#4 []) with inp := .other .other 0#4 [] } = .next t := ⟨_, rfl⟩

theorem witness_numeric_as_bytes :
    (∃ t, exec .encHex { lit (.raw 0#4 []) with inp := .raw 4#4 [1#8, 0#8] } = .next t) ∧
    IsNumeric (.numeric 4#4 [1#8, 0#8]) 4#4 [1#8, 0#8] ∧
    (∃ t, exec (.arrayFromEndianUint16 .big) { lit (.raw 0#4 []) with inp := .raw 4#4 [1#8, 0#8] } = .next t) ∧
    fromEndianCommand .uint16 .big = some (.arrayFromEndianUint16 .big) :=
  ⟨⟨_, rfl⟩, ⟨rfl, by decide, by decide⟩, ⟨_, rfl⟩, rfl⟩

theorem witness_acceptance_error :
    (∃ (s t : State), exec .encHex s = .next t ∧ statusErr t.status = 1#4) ∧ ∃ (s t : State), exec .decHex s = .next t ∧ statusErr t.status = 3#4 :=
  ⟨⟨lit (.text 0#4 []), _, rfl, by decide⟩, lit (.raw 0#4 []), _, rfl, by decide⟩

/-- The length clauses of a register read, and the read of an offset between two registers. -/
theorem witness_read_register :
    (∃ (s : State) (rest : List HostAction), s.host = .readReg 0x10 :: rest ∧ inLengthNumber s.inp < 2 ^ 32) ∧
    (∃ (s : State) (rest : List HostAction), s.host = .readReg 0x18 :: rest ∧ outLengthNumber s.out < 2 ^ 32) ∧
    ∃ (s : State) (rest : List HostAction), s.host = .readReg 0x19 :: rest ∧
      0x19 ∉ [0x00, 0x04, 0x08, 0x0C, 0x10, 0x14, 0x18] :=
  ⟨⟨acted (.readReg 0x10) .none, [], rfl, by decide⟩, ⟨acted (.readReg 0x18) .none, [], rfl, by decide⟩,
    acted (.readReg 0x19) .none, [], rfl, by decide⟩

theorem witness_write_register :
    (∃ (s : State) (v : Word) (rest : List HostAction), s.host = .writeReg 0 v :: rest) ∧ (∃ (s : State) (v : Word) (rest : List HostAction), s.host = .writeReg 0x0C v :: rest) ∧
    ∃ (s : State) (v : Word) (rest : List HostAction), s.host = .writeReg 1 v :: rest :=
  ⟨⟨acted (.writeReg 0 1#32) .none, _, _, rfl⟩, ⟨acted (.writeReg 0x0C 1#32) .none, _, _, rfl⟩,
    acted (.writeReg 1 1#32) .none, _, _, rfl⟩

/-- The first and the last reserved TAG code of R25, which 16-bit elements do not refuse. -/
theorem witness_set_in_reserved :
    ∃ (s s' : State) (d : List TextUnit) (rest : List HostAction), s.host = .setIn 5#32 d :: rest ∧
      s'.host = .setIn 15#32 d :: rest ∧ ((5#32).toNat % 16 = 5 + (0 : Fin 11).val) ∧
      ((15#32).toNat % 16 = 5 + (10 : Fin 11).val) ∧ (5#32).toNat % 16 ∉ [1, 2, 4] ∧ (15#32).toNat % 16 ∉ [1, 2, 4] :=
  ⟨acted (.setIn 5#32 [0x141#16]) .none, acted (.setIn 15#32 [0x141#16]) .none, _, _, rfl, rfl, by decide, by decide,
    by decide, by decide⟩

/-- The widest element that a byte operand takes, a 16-bit element under TEXT, and the narrowest that does not fit. -/
theorem witness_set_in :
    (∃ (s : State) (desc : Word) (d : List TextUnit) (rest : List HostAction), s.host = .setIn desc d :: rest ∧ (desc.toNat % 16 ∈ [1, 2, 4] → ∀ u ∈ d, u.toNat < 256) ∧
      desc = 0x00000001#32 ∧ d = [255#16]) ∧
    (∃ (s : State) (desc : Word) (d : List TextUnit) (rest : List HostAction), s.host = .setIn desc d :: rest ∧ (desc.toNat % 16 ∈ [1, 2, 4] → ∀ u ∈ d, u.toNat < 256) ∧
      desc = 0x00000003#32 ∧ d = [0xFFFF#16]) ∧
    ∃ (s : State) (desc : Word) (d : List TextUnit) (rest : List HostAction), s.host = .setIn desc d :: rest ∧ desc.toNat % 16 ∈ [1, 2, 4] ∧ ∃ u ∈ d, 256 ≤ u.toNat :=
  ⟨⟨acted (.setIn 1#32 [255#16]) .none, _, _, _, rfl, by simp, rfl, rfl⟩,
    ⟨acted (.setIn 3#32 [0xFFFF#16]) .none, _, _, _, rfl, by simp, rfl, rfl⟩,
    acted (.setIn 1#32 [256#16]) .none, _, _, _, rfl, by simp, _, List.mem_singleton_self _, by decide⟩

theorem witness_read_out : ∃ (s : State) (rest : List HostAction), s.host = .readOut :: rest ∧ s.out ≠ .none :=
  ⟨acted .readOut (.bool true), [], rfl, by decide⟩

theorem witness_move_out : ∃ (s : State) (rest : List HostAction), s.host = .moveOutToIn :: rest ∧ s.out ≠ .none ∧ s.out = .order .big :=
  ⟨acted .moveOutToIn (.order .big), [], rfl, by decide, rfl⟩

theorem witness_move_none : ∃ (s : State) (rest : List HostAction), s.host = .moveOutToIn :: rest ∧ s.out = .none :=
  ⟨acted .moveOutToIn .none, [], rfl, rfl⟩

/-- ARRAY_FROM_ENDIAN words of the kinds just outside the legal ones. -/
theorem witness_illegal_kind :
    (0x0000040B#32).toNat % 256 = 0x0B ∧ (0x0000040B#32).toNat / 512 % 16 = 2 ∧
    (0x0000160B#32).toNat % 256 = 0x0B ∧ 10 < (0x0000160B#32).toNat / 512 % 16 := by
  decide

theorem witness_reset_action : ∃ (s : State) (rest : List HostAction), s.host = .reset :: rest ∧ s.hostFlag = .big :=
  ⟨{ acted .reset .none with hostFlag := .big }, [], rfl, rfl⟩

end Sys2Proof.Tests
end

section
/-!
SUPPORT. Every command by the family of its meaning, the side effect that belongs to each command (R36), and what a
completion and a step leave: the rules that the statements about the state are assembled from.
-/
namespace Sys2Proof.Machine
open Sys2Proof.Claims

/-! ## The families of commands -/

/-- The ARRAY_FROM_ENDIAN command of a kind is the one meaning of R211 at that kind. -/
theorem exec_fromEndianCommand {k : ElemKind} {ord : ByteOrder} {i : Instr} (h : fromEndianCommand k ord = some i)
    (s : State) : exec i s = arrayFromEndian k ord s := by
  cases k with
  | uint8clamped => cases h
  | _ => cases h; rfl

/-- No ARRAY_FROM_ENDIAN command has the kind uint8clamped (R73). -/
theorem fromEndianCommand_ne_uint8clamped {k : ElemKind} {ord : ByteOrder} {i : Instr}
    (h : fromEndianCommand k ord = some i) : k ≠ .uint8clamped := by
  rintro rfl
  cases h

/-- Case analysis on a command that takes the ten rows of ARRAY_FROM_ENDIAN as one case. -/
theorem instrFamilies {motive : Instr → Prop}
    (encHex : motive .encHex) (decHex : motive .decHex) (encB64 : motive .encB64) (decB64 : motive .decB64)
    (encB64Url : motive .encB64Url) (decB64Url : motive .decB64Url) (hostIsBig : motive .hostIsBig)
    (hostIsLittle : motive .hostIsLittle) (hostEndianness : motive .hostEndianness)
    (arrayToEndian : ∀ ord, motive (.arrayToEndian ord))
    (arrayFromEndian : ∀ k ord i, fromEndianCommand k ord = some i → motive i)
    (testForceLittle : motive .testForceLittle) (testForceBig : motive .testForceBig) (i : Instr) : motive i := by
  cases i with
  | arrayToEndian ord => exact arrayToEndian ord
  | arrayFromEndianInt8 ord => exact arrayFromEndian .int8 ord _ rfl
  | arrayFromEndianUint8 ord => exact arrayFromEndian .uint8 ord _ rfl
  | arrayFromEndianInt16 ord => exact arrayFromEndian .int16 ord _ rfl
  | arrayFromEndianUint16 ord => exact arrayFromEndian .uint16 ord _ rfl
  | arrayFromEndianInt32 ord => exact arrayFromEndian .int32 ord _ rfl
  | arrayFromEndianUint32 ord => exact arrayFromEndian .uint32 ord _ rfl
  | arrayFromEndianInt64 ord => exact arrayFromEndian .int64 ord _ rfl
  | arrayFromEndianUint64 ord => exact arrayFromEndian .uint64 ord _ rfl
  | arrayFromEndianFloat32 ord => exact arrayFromEndian .float32 ord _ rfl
  | arrayFromEndianFloat64 ord => exact arrayFromEndian .float64 ord _ rfl
  | _ => assumption

/-! ## Which side effect belongs to which command (R36) -/

/-- The decoder that a reverse table belongs to (R125, R151). -/
def decoderOf : TableId → Instr
  | .hex => .decHex
  | .std => .decB64
  | .url => .decB64Url

/-- The override that forces a byte order (R206, R207). -/
def overrideTo : ByteOrder → Instr
  | .little => .testForceLittle
  | .big => .testForceBig

/-- The side effects of R36 with the commands that may have them: a decoder builds its own table, an override forces the
flag where the hooks are present. -/
inductive CommandEffect (i : Instr) (s : State) : State → Prop where
  | none : CommandEffect i s s
  | built (u : TableId) (hi : i = decoderOf u) : CommandEffect i s (ensureBuilt u s)
  | detected : CommandEffect i s (detect s)
  | forced (o : ByteOrder) (hi : i = overrideTo o) (hp : s.params.testHooks = .present) :
      CommandEffect i s { s with hostFlag := flagOfOrder o }

/-- The command went from `s` to `t`: a side effect of its own, then a completion (R60, R81). -/
def Ran (i : Instr) (s t : State) : Prop :=
  ∃ s', CommandEffect i s s' ∧ Completed s' t

theorem ran_of_completed {i : Instr} {s t : State} (h : Completed s t) : Ran i s t :=
  ⟨s, .none, h⟩

/-- A command that completes either at once or after its side effect has run. -/
theorem CommandEffect.ran {i : Instr} {s s' t : State} (he : CommandEffect i s s')
    (h : Completed s t ∨ Completed s' t) : Ran i s t :=
  h.elim ran_of_completed fun h => ⟨s', he, h⟩

theorem ran_of_hostQuery {i : Instr} {result : State → OutResult} {s t : State}
    (hr : ResultOk (result (detect s))) (h : hostQuery result s = .next t) : Ran i s t :=
  ⟨detect s, .detected, hostQuery_next h ▸ .success hr⟩

theorem ran_of_forceFlag {o : ByteOrder} {s t : State} (h : forceFlag (flagOfOrder o) s = .next t) :
    Ran (overrideTo o) s t := by
  obtain ⟨h, -⟩ | ⟨rfl, hp⟩ := forceFlag_next h
  · exact ran_of_completed h
  · exact ⟨_, .forced o rfl hp, .success resultOk_none⟩

/-- Every command that answers a next state has had a side effect of its own, or none, and then completed. -/
theorem exec_next_ran {i : Instr} {s t : State} (h : exec i s = .next t) : Ran i s t := by
  induction i using instrFamilies with
  | encHex => exact ran_of_completed (execEncHex_next h)
  | decHex => exact (CommandEffect.built .hex rfl).ran (execDecHex_next h)
  | encB64 => exact ran_of_completed (b64Encode_next h)
  | decB64 => exact (CommandEffect.built .std rfl).ran (b64Decode_next (v := .std) h)
  | encB64Url => exact ran_of_completed (b64Encode_next h)
  | decB64Url => exact (CommandEffect.built .url rfl).ran (b64Decode_next (v := .url) h)
  | hostIsBig =>
    rw [exec, execHostIsBig] at h
    exact ran_of_hostQuery (resultOk_bool _) h
  | hostIsLittle =>
    rw [exec, execHostIsLittle] at h
    exact ran_of_hostQuery (resultOk_bool _) h
  | hostEndianness =>
    rw [exec, execHostEndianness] at h
    exact ran_of_hostQuery (resultOk_order _) h
  | arrayToEndian ord => exact CommandEffect.detected.ran (execArrayToEndian_next h)
  | arrayFromEndian k ord i hi =>
    rw [exec_fromEndianCommand hi] at h
    exact CommandEffect.detected.ran (arrayFromEndian_next (fromEndianCommand_ne_uint8clamped hi) h)
  | testForceLittle => exact ran_of_forceFlag (o := .little) h
  | testForceBig => exact ran_of_forceFlag (o := .big) h

/-! ## What a completion changes -/

/-- A completion writes OUT, STATUS and ERR_OFFSET and nothing else (R82, R252). -/
theorem Completed.frame {s t : State} (h : Completed s t) :
    ∃ r w e, t = { s with out := r, status := w, errOffset := e } := by
  cases h <;> exact ⟨_, _, _, rfl⟩

/-- A command leaves CMD, IN, the parameters, the host's list and its replies alone (R36). -/
theorem Ran.frame {i : Instr} {s t : State} (h : Ran i s t) :
    t.cmd = s.cmd ∧ t.inp = s.inp ∧ t.params = s.params ∧ t.host = s.host ∧ t.replies = s.replies := by
  obtain ⟨s', he, hc⟩ := h
  obtain ⟨r, w, e, rfl⟩ := hc.frame
  cases he <;> simp

/-! ## Tables -/

/-- A table and its valid flag are the same in both states. -/
def TableKept (u : TableId) (s t : State) : Prop :=
  tableEntries t u = tableEntries s u ∧ tableValid t u = tableValid s u

/-- A table was not valid and has been built (R153). -/
def TableBuilt (u : TableId) (s t : State) : Prop :=
  tableValid s u = false ∧ tableEntries t u = builtTable u ∧ tableValid t u = true

/-- Every valid table holds what its build writes (R32, R153). -/
def TablesSound (s : State) : Prop :=
  ∀ u, tableValid s u = true → tableEntries s u = builtTable u

theorem State.Inv.tablesSound {s : State} (h : s.Inv) : TablesSound s
  | .hex => h.hexBuilt
  | .std => h.stdBuilt
  | .url => h.urlBuilt

theorem tableKept_detect (u : TableId) (s : State) : TableKept u s (detect s) := by
  cases u <;> simp [TableKept, tableEntries, tableValid]

theorem ensureBuilt_keeps_or_builds (u : TableId) (s : State) :
    TableKept u s (ensureBuilt u s) ∨ TableBuilt u s (ensureBuilt u s) := by
  cases h : tableValid s u with
  | true => rw [ensureBuilt_of_valid u s h]; exact .inl ⟨rfl, rfl⟩
  | false => exact .inr ⟨h, by rw [ensureBuilt_of_not_valid u s h, buildTable_entries], ensureBuilt_valid u s⟩

/-- A table is kept by every command but its own decoder, which keeps it or builds it. -/
theorem Ran.table {i : Instr} {s t : State} (h : Ran i s t) (u : TableId) :
    TableKept u s t ∨ i = decoderOf u ∧ TableBuilt u s t := by
  obtain ⟨s', he, hc⟩ := h
  obtain ⟨r, w, e, rfl⟩ := hc.frame
  cases he with
  | none => exact .inl ⟨rfl, rfl⟩
  | built v hi =>
    by_cases huv : u = v
    · subst huv
      exact (ensureBuilt_keeps_or_builds u s).imp_right fun hb => ⟨hi, hb⟩
    · exact .inl (ensureBuilt_other v u s huv)
  | detected => exact .inl (tableKept_detect u s)
  | forced o hi hp => exact .inl ⟨rfl, rfl⟩

theorem TablesSound.of_ran {i : Instr} {s t : State} (hs : TablesSound s) (h : Ran i s t) : TablesSound t := by
  intro u hu
  obtain ⟨hent, hval⟩ | ⟨-, -, hent, -⟩ := h.table u
  · rw [hent]
    exact hs u (hval ▸ hu)
  · exact hent

/-! ## HOST_FLAG and HOST_SCRATCH -/

/-- The claims' state after `detect()` is the model's (R200). -/
theorem detected_eq_detect (s : State) : detected s = detect s := by
  obtain ⟨⟨order, _, _⟩, _, _, _, _, _, _, _, flag, _, _, _, _, _, _, _⟩ := s
  cases flag <;> cases order <;> rfl

/-- The claims' byte order is the one `flag_ord` reads (R203). -/
theorem orderSeen_eq_flagOrd (s : State) : orderSeen s = flagOrd s := by
  unfold orderSeen flagOrd
  cases s.hostFlag <;> rfl

/-- HOST_FLAG and HOST_SCRATCH are kept, left as detection leaves them, or the flag alone is forced by its override. -/
theorem Ran.hostFlag {i : Instr} {s t : State} (h : Ran i s t) :
    t.hostFlag = s.hostFlag ∧ t.hostScratch = s.hostScratch ∨
      t.hostFlag = (detect s).hostFlag ∧ t.hostScratch = (detect s).hostScratch ∨
      t.hostScratch = s.hostScratch ∧ s.params.testHooks = .present ∧
        ∃ o, i = overrideTo o ∧ t.hostFlag = flagOfOrder o := by
  obtain ⟨s', he, hc⟩ := h
  obtain ⟨r, w, e, rfl⟩ := hc.frame
  cases he with
  | none => exact .inl ⟨rfl, rfl⟩
  | built u hi => exact .inl ⟨ensureBuilt_hostFlag u s, ensureBuilt_hostScratch u s⟩
  | detected => exact .inr (.inl ⟨rfl, rfl⟩)
  | forced o hi hp => exact .inr (.inr ⟨rfl, hp, o, hi, rfl⟩)

/-! ## Error codes (R250) -/

@[simp] theorem errCode_ne_zero (k : ErrorKind) : errCode k ≠ 0#4 := by
  cases k <;> decide

theorem errCode_le_eight (k : ErrorKind) : errCode k ≤ 8#4 := by
  cases k <;> decide

@[simp] theorem errCode_eq_five_iff (k : ErrorKind) : errCode k = 5#4 ↔ k = .unsupportedCharacter := by
  cases k <;> decide

/-! ## The invariant -/

/-- The invariant reads neither the host's side nor IN. -/
theorem State.Inv.with_host_inp {s : State} (h : s.Inv) (host : List HostAction) (replies : List HostReply)
    (i : InOperand) : State.Inv { s with host := host, replies := replies, inp := i } :=
  ⟨h.hexBuilt, h.stdBuilt, h.urlBuilt, h.statusReserved, h.errLegal, h.runLegal, h.beforeCommands, h.noOutOnError,
    h.noOffsetOnSuccess, h.outWholeElements, h.outTextAscii⟩

/-- A completion meets the invariant whatever was in OUT, STATUS and ERR_OFFSET before, given sound tables. -/
theorem Completed.inv {s t : State} (h : Completed s t) (hs : TablesSound s) : t.Inv := by
  cases h with
  | @success r hr =>
    obtain ⟨hnum, htext⟩ := hr
    exact
      { hexBuilt := hs .hex
        stdBuilt := hs .std
        urlBuilt := hs .url
        statusReserved := statusWord_reserved _ _
        errLegal := by simp
        runLegal := by simp
        beforeCommands := by simp
        noOutOnError := by simp
        noOffsetOnSuccess := fun _ => rfl
        outWholeElements := hnum
        outTextAscii := htext }
  | @error e he =>
    exact
      { hexBuilt := hs .hex
        stdBuilt := hs .std
        urlBuilt := hs .url
        statusReserved := statusWord_reserved _ _
        errLegal := by simpa using errCode_le_eight e.kind
        runLegal := by simpa [ErrorOk] using he
        beforeCommands := by simp
        noOutOnError := fun _ => rfl
        noOffsetOnSuccess := by simp
        outWholeElements := by simp
        outTextAscii := by simp }

theorem Ran.inv {i : Instr} {s t : State} (h : Ran i s t) (hs : TablesSound s) : t.Inv := by
  have ht : TablesSound t := hs.of_ran h
  obtain ⟨s', he, hc⟩ := h
  refine hc.inv ?_
  obtain ⟨r, w, e, rfl⟩ := hc.frame
  exact ht

/-- The reset state of any parameters meets the invariant (R35). -/
theorem resetWith_inv (p : Params) : (State.resetWith p).Inv where
  hexBuilt := by intro h; cases h
  stdBuilt := by intro h; cases h
  urlBuilt := by intro h; cases h
  statusReserved := by simp [State.resetWith]
  errLegal := by simp [State.resetWith, statusErr]
  runLegal := by simp [State.resetWith, statusErr, statusRun]
  beforeCommands := fun _ => ⟨rfl, rfl⟩
  noOutOnError := fun _ => rfl
  noOffsetOnSuccess := fun _ => rfl
  outWholeElements := by intro k d h; cases h
  outTextAscii := by intro d h; cases h

/-! ## Host actions and steps -/

/-- With an action pending, the step is that action at the state that has taken it from the list (R270). -/
theorem step_cons {s : State} {a : HostAction} {rest : List HostAction} (h : s.host = a :: rest) :
    step s = hostAct a { s with host := rest } := by
  simp only [step, h]

/-- What a host action that answers a next state has done (R270). -/
inductive ActionEffect (s : State) : State → Prop where
  | nothing : ActionEffect s s
  | setIn (op : InOperand) : ActionEffect s { s with inp := op }
  | reply (r : HostReply) : ActionEffect s { s with replies := s.replies ++ [r] }
  | command {t : State} (w : Word) (i : Instr) (h : Ran i { s with cmd := w } t) : ActionEffect s t
  | illegalWord (w : Word) : ActionEffect s (raiseError { s with cmd := w } ⟨.illegalCommand, 0, 0#3⟩)
  | reset : ActionEffect s { State.resetWith s.params with host := s.host, replies := s.replies }

theorem hostWriteCmd_next {w : Word} {s t : State} (h : hostWriteCmd w s = .next t) : ActionEffect s t := by
  unfold hostWriteCmd at h
  split at h
  · exact .command w _ (exec_next_ran h)
  · cases h; exact .illegalWord w

theorem hostAct_next {a : HostAction} {s t : State} (h : hostAct a s = .next t) : ActionEffect s t := by
  cases a with
  | setIn desc d =>
    simp only [hostAct, hostSetIn] at h
    split at h <;> cases h
    exact .setIn _
  | writeCmd w => exact hostWriteCmd_next h
  | writeReg offset v =>
    cases offset with
    | zero => exact hostWriteCmd_next h
    | succ n =>
      simp only [hostAct, hostWriteReg] at h
      split at h <;> cases h
      exact .nothing
  | readReg offset => cases h; exact .reply _
  | readOut =>
    simp only [hostAct, hostReadOut] at h
    split at h <;> cases h <;> exact .reply _
  | moveOutToIn =>
    simp only [hostAct, hostMoveOutToIn] at h
    split at h <;> cases h <;> exact .setIn _
  | reset => cases h; exact .reset

theorem ActionEffect.inv {s t : State} (h : ActionEffect s t) (hs : s.Inv) : t.Inv := by
  cases h with
  | nothing => exact hs
  | setIn op => exact hs.with_host_inp ..
  | reply r => exact hs.with_host_inp ..
  | command w i hr => exact hr.inv hs.tablesSound
  | illegalWord w => exact Completed.inv (s := { s with cmd := w }) (.error rfl) hs.tablesSound
  | reset => exact (resetWith_inv s.params).with_host_inp ..

end Sys2Proof.Machine

namespace Sys2Proof.Proofs
open Sys2Proof.Machine Sys2Proof.Claims

/-- Settles O8: a step is idle or one host action, and each effect of an action keeps the invariant. -/
theorem everyStepKeepsTheInvariant : Obligations.EveryStepKeepsTheInvariant := by
  intro s t hs h
  unfold step at h
  split at h
  · cases h; exact hs
  · exact (hostAct_next h).inv (hs.with_host_inp ..)

/-- Settles O11, from the frame of a command's side effect and completion. -/
theorem commandsChangeOnlyResultsAndSideEffects : Obligations.CommandsChangeOnlyResultsAndSideEffects := by
  intro i s t h
  have hr := exec_next_ran h
  obtain ⟨hcmd, hinp, hparams, hhost, hreplies⟩ := hr.frame
  have table u : TableKept u s t ∨ TableBuilt u s t := (hr.table u).imp_right And.right
  refine ⟨hcmd, hinp, hparams, hhost, hreplies, table .hex, table .std, table .url, ?_⟩
  rw [detected_eq_detect]
  obtain h | h | ⟨hscratch, hp, o, hi, hflag⟩ := hr.hostFlag
  · exact .inl h
  · exact .inr (.inl h)
  · refine .inr (.inr ⟨hscratch, hp, ?_⟩)
    cases o with
    | little => exact .inl ⟨hi, hflag⟩
    | big => exact .inr ⟨hi, hflag⟩

/-- Settles O12: a completion is a success of R82 or a `raise` of R252, and either is consistent. -/
theorem everyCompletionIsConsistent : Obligations.EveryCompletionIsConsistent := by
  intro i s t h
  obtain ⟨s', -, hc⟩ := exec_next_ran h
  cases hc with
  | success hr => simp [statusWord_reserved]
  | @error e he =>
    have hle : (errCode e.kind).toNat ≤ 8 := errCode_le_eight e.kind
    have hrun : e.run ≠ 0#3 → e.kind = .unsupportedCharacter := by
      intro hne
      by_contra hk
      exact hne (by simpa [ErrorOk, hk] using he)
    simpa [statusWord_reserved, hle] using hrun

/-- Settles O19: the side effect that builds a table belongs to the table's decoder. -/
theorem tablesBelongToTheirDecoder : Obligations.TablesBelongToTheirDecoder := by
  intro i s t h
  have kept u (hi : i ≠ decoderOf u) : TableKept u s t :=
    ((exec_next_ran h).table u).resolve_right fun hb => hi hb.1
  exact ⟨kept .hex, kept .std, kept .url⟩

/-- Settles O6: each value is the one `State.resetWith` writes. -/
theorem resetLeavesTheStatedValues : Obligations.ResetLeavesTheStatedValues :=
  ⟨rfl, rfl, rfl, rfl, rfl, rfl, rfl, rfl, rfl⟩

/-- Settles O7: reset with any parameters meets the invariant. -/
theorem resetStateMeetsTheInvariant : Obligations.ResetStateMeetsTheInvariant :=
  resetWith_inv _

/-- Settles O46: `Reset` answers the reset state with the host's side kept. -/
theorem hostResetRestoresResetValues : Obligations.HostResetRestoresResetValues := by
  intro s rest h
  exact ⟨_, step_cons h, rfl, rfl, rfl, rfl, rfl, rfl, rfl, rfl, rfl, rfl, rfl, rfl⟩

/-- Settles O4: the CMD write is taken from the list, kept in CMD and decoded. -/
theorem stepRunsTheDecodedCommand : Obligations.StepRunsTheDecodedCommand := by
  intro s w rest i h hd
  rw [step_cons h]
  simp only [hostAct, hostWriteCmd, hd]

end Sys2Proof.Proofs
end

section
/-!
SUPPORT. No command ends in a model fault, and no hidden state shows in what a command leaves (R34, R257): one lemma per
family of meanings, assembled over the families.
-/
namespace Sys2Proof.Machine
open Sys2Proof.Claims

/-! ## No command ends in a model fault (R257) -/

theorem execEncHex_ne_fault (s : State) (f : Fault) : execEncHex s ≠ .fault f := by
  refine guardIn_ne_fault ?_
  split
  · simp
  · exact guardOut_ne_fault (by simp)

theorem execDecHex_ne_fault (s : State) (f : Fault) : execDecHex s ≠ .fault f := by
  refine guardIn_ne_fault ?_
  split
  · simp
  · dsimp only
    split
    · simp
    · refine guardOut_ne_fault ?_
      split <;> simp

theorem b64Encode_ne_fault (v : Variant) (s : State) (f : Fault) : b64Encode v s ≠ .fault f := by
  refine guardIn_ne_fault ?_
  split
  · simp
  · exact guardOut_ne_fault (by simp)

theorem b64Decode_ne_fault (v : Variant) (s : State) (f : Fault) : b64Decode v s ≠ .fault f := by
  refine guardIn_ne_fault ?_
  split
  · simp
  · dsimp only
    split
    · simp
    · refine guardOut_ne_fault ?_
      split <;> simp

theorem hostQuery_ne_fault (result : State → OutResult) (s : State) (f : Fault) : hostQuery result s ≠ .fault f :=
  guardIn_ne_fault (guardOut_ne_fault (by simp))

theorem forceFlag_ne_fault (g : HostFlag) (s : State) (f : Fault) : forceFlag g s ≠ .fault f := by
  unfold forceFlag
  split
  · simp
  · exact guardIn_ne_fault (guardOut_ne_fault (by simp))

theorem execArrayToEndian_ne_fault (ord : ByteOrder) (s : State) (f : Fault) : execArrayToEndian ord s ≠ .fault f := by
  refine guardIn_ne_fault ?_
  split
  · simp
  · exact guardOut_ne_fault (by simp)

theorem arrayFromEndian_ne_fault (k : ElemKind) (ord : ByteOrder) (s : State) (f : Fault) :
    arrayFromEndian k ord s ≠ .fault f := by
  refine guardIn_ne_fault ?_
  split
  · simp
  · split
    · simp
    · exact guardOut_ne_fault (by simp)

/-- No command ends in a model fault: faults are the host's (R257). -/
theorem exec_ne_fault (i : Instr) (s : State) (f : Fault) : exec i s ≠ .fault f := by
  induction i using instrFamilies with
  | encHex => exact execEncHex_ne_fault s f
  | decHex => exact execDecHex_ne_fault s f
  | encB64 | encB64Url => exact b64Encode_ne_fault _ s f
  | decB64 | decB64Url => exact b64Decode_ne_fault _ s f
  | hostIsBig | hostIsLittle | hostEndianness =>
    simp only [exec, execHostIsBig, execHostIsLittle, execHostEndianness]
    exact hostQuery_ne_fault _ s f
  | arrayToEndian ord => exact execArrayToEndian_ne_fault ord s f
  | arrayFromEndian k ord i hi =>
    rw [exec_fromEndianCommand hi]
    exact arrayFromEndian_ne_fault k ord s f
  | testForceLittle | testForceBig => exact forceFlag_ne_fault _ s f

theorem hostWriteCmd_ne_fault (w : Word) (s : State) (f : Fault) : hostWriteCmd w s ≠ .fault f := by
  unfold hostWriteCmd
  split
  · exact exec_ne_fault _ _ f
  · simp [illegalCommand]

/-- A host action faults exactly when it reads or moves an OUT that is NONE (R27, R257). -/
theorem hostAct_fault_iff (a : HostAction) (s : State) :
    (∃ f, hostAct a s = .fault f) ↔ s.out = .none ∧ (a = .readOut ∨ a = .moveOutToIn) := by
  cases a with
  | setIn desc d =>
    simp only [hostAct, hostSetIn]
    split <;> simp
  | writeCmd w => simpa [hostAct] using hostWriteCmd_ne_fault w s
  | writeReg offset v =>
    cases offset with
    | zero => simpa [hostAct] using hostWriteCmd_ne_fault v s
    | succ n =>
      simp only [hostAct, hostWriteReg]
      split <;> simp
  | readReg offset => simp [hostAct, hostReadReg]
  | readOut =>
    simp only [hostAct, hostReadOut]
    split <;> simp_all
  | moveOutToIn =>
    simp only [hostAct, hostMoveOutToIn]
    split <;> simp_all
  | reset => simp [hostAct, hostReset]

/-! ## What is observed of a command (R34, R59) -/

/-- A guard that refuses hides what it guards. -/
@[simp] theorem observed_guardIn (s : State) (k : StepOutcome) :
    observed (guardIn s k) = if withinMax s.params (inLength s.inp) then observed k else none := by
  unfold guardIn
  split <;> rfl

@[simp] theorem observed_guardOut (s : State) (n : Nat) (k : StepOutcome) :
    observed (guardOut s n k) = if withinMax s.params n then observed k else none := by
  unfold guardOut
  split <;> rfl

@[simp] theorem observed_complete (s : State) (r : OutResult) :
    observed (.next (complete s r)) = some (s.cmd, s.inp, r, statusWord 0#4 0#3, 0#32) := rfl

@[simp] theorem observed_raiseError (s : State) (e : CmdError) :
    observed (.next (raiseError s e)) =
      some (s.cmd, s.inp, .none, statusWord (errCode e.kind) e.run, errOffsetWord s.cmd s.inp e.off) := rfl

/-- After `ensure_built` a table holds the built contents, given sound tables: built before or built now (R153). -/
theorem TablesSound.ensureBuilt_entries {s : State} (hs : TablesSound s) (u : TableId) :
    tableEntries (ensureBuilt u s) u = builtTable u := by
  obtain ⟨hent, hval⟩ | ⟨-, hent, -⟩ := ensureBuilt_keeps_or_builds u s
  · rw [hent]
    exact hs u (hval ▸ ensureBuilt_valid u s)
  · exact hent

/-- Two states that agree on everything a command may let show: the parameters, CMD, IN and the byte order that
`flag_ord` gives. -/
structure SameInputs (s s' : State) : Prop where
  params : s'.params = s.params
  cmd : s'.cmd = s.cmd
  inp : s'.inp = s.inp
  order : flagOrd s' = flagOrd s

section Observed
variable {s s' : State}

theorem SameInputs.observed_execEncHex (h : SameInputs s s') : observed (execEncHex s') = observed (execEncHex s) := by
  simp only [execEncHex, observed_guardIn, h.params, h.inp]
  cases acceptView s.inp <;> simp [h.params, h.cmd, h.inp]

theorem SameInputs.observed_b64Encode (h : SameInputs s s') (v : Variant) :
    observed (b64Encode v s') = observed (b64Encode v s) := by
  simp only [b64Encode, observed_guardIn, h.params, h.inp]
  cases acceptView s.inp <;> simp [h.params, h.cmd, h.inp]

theorem SameInputs.observed_execDecHex (h : SameInputs s s') (hs : TablesSound s) (hs' : TablesSound s') :
    observed (execDecHex s') = observed (execDecHex s) := by
  have htbl : (ensureBuilt .hex s).hexTbl = builtTable .hex := hs.ensureBuilt_entries .hex
  have htbl' : (ensureBuilt .hex s').hexTbl = builtTable .hex := hs'.ensureBuilt_entries .hex
  simp only [execDecHex, observed_guardIn, h.params, h.inp, htbl, htbl']
  cases acceptText s.inp with
  | none => simp [h.cmd, h.inp]
  | some t =>
    cases hb : hexBytes (builtTable .hex) 0 t <;> simp [hb, apply_ite observed, h.params, h.cmd, h.inp]

theorem SameInputs.observed_b64Decode (h : SameInputs s s') (hs : TablesSound s) (hs' : TablesSound s') (v : Variant) :
    observed (b64Decode v s') = observed (b64Decode v s) := by
  simp only [b64Decode, observed_guardIn, h.params, h.inp, hs.ensureBuilt_entries, hs'.ensureBuilt_entries]
  cases acceptText s.inp with
  | none => simp [h.cmd, h.inp]
  | some t =>
    cases hb : b64Bytes (builtTable (variantTable v)) 0 (stripPad t) <;>
      simp [hb, apply_ite observed, h.params, h.cmd, h.inp]

theorem SameInputs.observed_hostQuery (h : SameInputs s s') {result : State → OutResult}
    (hr : result (detect s') = result (detect s)) : observed (hostQuery result s') = observed (hostQuery result s) := by
  simp [hostQuery, h.params, h.cmd, h.inp, hr]

theorem SameInputs.observed_forceFlag (h : SameInputs s s') (f : HostFlag) :
    observed (forceFlag f s') = observed (forceFlag f s) := by
  simp only [forceFlag, h.params]
  cases s.params.testHooks <;> simp [h.params, h.cmd, h.inp]

theorem SameInputs.observed_execArrayToEndian (h : SameInputs s s') (ord : ByteOrder) :
    observed (execArrayToEndian ord s') = observed (execArrayToEndian ord s) := by
  simp only [execArrayToEndian, observed_guardIn, h.params, h.inp]
  cases acceptNumeric s.inp <;> simp [h.params, h.cmd, h.inp, h.order]

theorem SameInputs.observed_arrayFromEndian (h : SameInputs s s') (k : ElemKind) (ord : ByteOrder) :
    observed (arrayFromEndian k ord s') = observed (arrayFromEndian k ord s) := by
  simp only [arrayFromEndian, observed_guardIn, h.params, h.inp]
  cases acceptView s.inp <;> simp [apply_ite observed, h.params, h.cmd, h.inp, h.order]

/-- What is observed of a command depends on its inputs only (R34, R59). -/
theorem SameInputs.observed_exec (h : SameInputs s s') (hs : TablesSound s) (hs' : TablesSound s') (i : Instr) :
    observed (exec i s') = observed (exec i s) := by
  have hflag : (detect s').hostFlag = (detect s).hostFlag := by simp [h.order]
  have hord : flagOrd (detect s') = flagOrd (detect s) := by simp [h.order]
  induction i using instrFamilies with
  | encHex => exact h.observed_execEncHex
  | decHex => exact h.observed_execDecHex hs hs'
  | encB64 => exact h.observed_b64Encode .std
  | decB64 => exact h.observed_b64Decode hs hs' .std
  | encB64Url => exact h.observed_b64Encode .url
  | decB64Url => exact h.observed_b64Decode hs hs' .url
  | hostIsBig | hostIsLittle | hostEndianness =>
    simp only [exec, execHostIsBig, execHostIsLittle, execHostEndianness]
    exact h.observed_hostQuery (by simp only [hflag, hord])
  | arrayToEndian ord => exact h.observed_execArrayToEndian ord
  | arrayFromEndian k ord i hi =>
    rw [exec_fromEndianCommand hi, exec_fromEndianCommand hi]
    exact h.observed_arrayFromEndian k ord
  | testForceLittle => exact h.observed_forceFlag .little
  | testForceBig => exact h.observed_forceFlag .big

end Observed

/-! ## Commands that do not read the operand's tag (R25) -/

/-- Detection commutes with a change of IN. -/
theorem detect_with_inp (s : State) (op : InOperand) : detect { s with inp := op } = { detect s with inp := op } := by
  unfold detect
  dsimp only
  split <;> rfl

/-- An error at index 0 does not depend on what IN holds, and its guard only on the length of IN (R29, R68). -/
theorem guarded_raise_with_inp {s t : State} {a b : InOperand} {kind : ErrorKind} (hlen : inLength b = inLength a)
    (h : guardIn { s with inp := a } (.next (raiseError { s with inp := a } ⟨kind, 0, 0#3⟩)) = .next t) :
    guardIn { s with inp := b } (.next (raiseError { s with inp := b } ⟨kind, 0, 0#3⟩)) =
      .next { t with inp := b } := by
  obtain ⟨hw, h⟩ := guardIn_eq_next.mp h
  cases h
  refine guardIn_eq_next.mpr ⟨hlen ▸ hw, ?_⟩
  simp [raiseError]

theorem hostQuery_with_inp {result : State → OutResult} {s t : State} {a b : InOperand}
    (hr : ∀ (u : State) (op : InOperand), result { u with inp := op } = result u) (hlen : inLength b = inLength a)
    (h : hostQuery result { s with inp := a } = .next t) :
    hostQuery result { s with inp := b } = .next { t with inp := b } := by
  obtain ⟨hw, h⟩ := guardIn_eq_next.mp h
  obtain ⟨hout, h⟩ := guardOut_eq_next.mp h
  cases h
  refine guardIn_eq_next.mpr ⟨hlen ▸ hw, guardOut_eq_next.mpr ⟨hout, ?_⟩⟩
  simp only [detect_with_inp, hr]
  rfl

theorem forceFlag_with_inp {f : HostFlag} {s t : State} {a b : InOperand} (hlen : inLength b = inLength a)
    (h : forceFlag f { s with inp := a } = .next t) :
    forceFlag f { s with inp := b } = .next { t with inp := b } := by
  cases hp : s.params.testHooks with
  | absent =>
    simp only [forceFlag, hp] at h ⊢
    cases h
    simp [raiseError]
  | present =>
    simp only [forceFlag, hp] at h ⊢
    obtain ⟨hw, h⟩ := guardIn_eq_next.mp h
    obtain ⟨hout, h⟩ := guardOut_eq_next.mp h
    cases h
    exact guardIn_eq_next.mpr ⟨hlen ▸ hw, guardOut_eq_next.mpr ⟨hout, rfl⟩⟩

end Sys2Proof.Machine

namespace Sys2Proof.Proofs
open Sys2Proof.Machine Sys2Proof.Claims

/-- Settles O36: the claim's byte order is the one `flag_ord` reads, and the invariant makes the tables sound. -/
theorem hiddenStateNeverShows : Obligations.HiddenStateNeverShows := by
  intro i s s' hs hs' hparams hcmd hinp horder
  rw [orderSeen_eq_flagOrd, orderSeen_eq_flagOrd] at horder
  have h : SameInputs s s' := ⟨hparams, hcmd, hinp, horder⟩
  exact h.observed_exec hs.tablesSound hs'.tablesSound i

/-- Settles O37: no acceptance function takes either tag, and the other commands do not read IN. -/
theorem reservedTagsActAsOther : Obligations.ReservedTagsActAsOther := by
  intro i s t tag ek d h
  have hlen : inLength (.other tag ek d) = inLength (.other .other ek d) := rfl
  induction i using instrFamilies with
  | encHex | decHex | encB64 | decB64 | encB64Url | decB64Url | arrayToEndian => exact guarded_raise_with_inp hlen h
  | hostIsBig | hostIsLittle | hostEndianness =>
    simp only [exec, execHostIsBig, execHostIsLittle, execHostEndianness] at h ⊢
    exact hostQuery_with_inp (fun _ _ => rfl) hlen h
  | arrayFromEndian k ord i hi =>
    rw [exec_fromEndianCommand hi] at h ⊢
    exact guarded_raise_with_inp hlen h
  | testForceLittle | testForceBig => exact forceFlag_with_inp hlen h

/-- Settles O43: no command faults, so only the host's two actions on OUT can. -/
theorem faultsAreReadsOfNoResult : Obligations.FaultsAreReadsOfNoResult := by
  intro s
  cases h : s.host with
  | nil => simp [step, h]
  | cons a rest => simpa [step_cons h] using hostAct_fault_iff a { s with host := rest }

end Sys2Proof.Proofs
end

section
/-!
SUPPORT. The host's side: the ports as numbers (R24 to R26), the register map (R22) and the operand that SetIN makes
(R270).
-/
namespace Sys2Proof.Machine
open Sys2Proof.Claims

/-! ## The ports as numbers -/

theorem inDesc_toNat_eq_inDescNumber (i : InOperand) : (inDesc i).toNat = inDescNumber i := by
  rw [inDesc_toNat]
  cases i with
  | other tag ek d =>
    cases tag with
    | other => simp [inTag, inEk, inDescNumber]
    | reserved n =>
      have hn : (n.val + 5) % 16 = 5 + n.val := by omega
      simp [inTag, inEk, inDescNumber, hn]
  | _ => simp [inTag, inEk, inDescNumber]

theorem outDesc_toNat_eq_outDescNumber (o : OutResult) : (outDesc o).toNat = outDescNumber o := by
  rw [outDesc_toNat]
  cases o with
  | numeric k d => cases k <;> rfl
  | _ => rfl

theorem inElems_length_eq_inLengthNumber (i : InOperand) : (inElems i).length = inLengthNumber i := by
  rw [inElems_length]
  cases i <;> rfl

theorem outElems_length_eq_outLengthNumber (o : OutResult) : (outElems o).length = outLengthNumber o := by
  cases o <;> simp [outElems, outLengthNumber]

/-- A length register is the length wherever 32 bits hold it (R22). -/
theorem lengthWord_toNat_of_lt (offset : Nat) (desc : Word) {elems : List TextUnit} (h : elems.length < 2 ^ 32) :
    (lengthWord offset desc elems).toNat = elems.length := by
  rw [lengthWord, if_pos h, BitVec.toNat_ofNat, Nat.mod_eq_of_lt h]

/-! ## Register accesses (R22) -/

/-- An offset that is no register reads 0. -/
theorem registerRead_unmapped (s : State) {offset : Nat}
    (h : offset ∉ [0x00, 0x04, 0x08, 0x0C, 0x10, 0x14, 0x18]) : registerRead s offset = 0#32 := by
  unfold registerRead
  split <;> simp_all

/-- A write is ignored at every offset but those of the IN port; offset 0 is the CMD write and never comes here. -/
theorem hostWriteReg_ignored (s : State) {offset : Nat} (hdesc : offset ≠ 0x0C) (hlen : offset ≠ 0x10) :
    hostWriteReg offset s = .next s := by
  unfold hostWriteReg
  split <;> trivial

/-! ## Bytes as 16-bit elements (R24, R270) -/

theorem unitOfByte_eq_ofNat (b : Byte) : unitOfByte b = BitVec.ofNat 16 b.toNat := by
  apply BitVec.eq_of_toNat_eq
  simp [unitOfByte]

/-- Elements that are bytes are those bytes widened. -/
theorem map_unitOfByte_of_areBytes {d : List TextUnit} {b : List Byte} (h : AreBytes d b) : b.map unitOfByte = d := by
  rw [h]
  exact List.map_congr_left fun x _ => unitOfByte_eq_ofNat x

/-- Elements of at most 8 bits are taken as bytes. -/
theorem bytesOfUnits_of_fit {d : List TextUnit} (h : ∀ u ∈ d, u.toNat < 256) :
    ∃ b, bytesOfUnits d = some b ∧ AreBytes d b := by
  have hall : d.all (fun u => u < 256#16) = true := by simpa [BitVec.lt_def] using h
  refine ⟨_, if_pos hall, ?_⟩
  rw [AreBytes, List.map_map]
  refine (List.map_id d).symm.trans (List.map_congr_left fun u hu => ?_)
  apply BitVec.eq_of_toNat_eq
  have hu : u.toNat < 256 := h u hu
  simp only [id_eq, Function.comp_apply, BitVec.toNat_ofNat, BitVec.toNat_setWidth]
  omega

/-- With one element over 8 bits the data are not taken as bytes. -/
theorem bytesOfUnits_of_not_fit {d : List TextUnit} (h : ∃ u ∈ d, 256 ≤ u.toNat) : bytesOfUnits d = none := by
  exact if_neg (by simpa [BitVec.lt_def] using h)

/-! ## SetIN -/

/-- The TAG field of an IN_DESC word (R24). -/
theorem descTag_toNat (desc : Word) : (desc.extractLsb 3 0).toNat = desc.toNat % 16 := by
  simp [BitVec.extractLsb_toNat]

/-- The EK field of an IN_DESC word (R24). -/
theorem descEk_eq_ofNat (desc : Word) : desc.extractLsb 7 4 = BitVec.ofNat 4 (desc.toNat / 16) := by
  apply BitVec.eq_of_toNat_eq
  simp [BitVec.extractLsb_toNat, Nat.shiftRight_eq_div_pow]

/-- What SetIN makes of a TAG code, an EK and elements: the operand of the code, which shows its TAG, EK and elements. -/
structure PortHolds (tag : Nat) (ek : BitVec 4) (d : List TextUnit) (op : InOperand) : Prop where
  makes : MakesOperand tag ek d op
  tagCode : (inTag op).toNat = tag
  ekField : inEk op = ek
  elems : inElems op = d

/-- A word whose elements fit its TAG makes an operand that holds the word's fields and the elements. -/
theorem operandOfDesc_of_fit {desc : Word} {d : List TextUnit}
    (h : desc.toNat % 16 ∈ [1, 2, 4] → ∀ u ∈ d, u.toNat < 256) :
    ∃ op, operandOfDesc desc d = some op ∧
      PortHolds (desc.toNat % 16) (BitVec.ofNat 4 (desc.toNat / 16)) d op := by
  have hlt : desc.toNat % 16 < 16 := Nat.mod_lt _ (by decide)
  simp only [operandOfDesc, descTag_toNat, descEk_eq_ofNat]
  generalize BitVec.ofNat 4 (desc.toNat / 16) = ek
  generalize desc.toNat % 16 = tag at h hlt
  split
  · exact ⟨_, rfl, ⟨fun _ => rfl, nofun, nofun, nofun, nofun, by omega⟩, rfl, rfl, rfl⟩
  · obtain ⟨b, hb, hd⟩ := bytesOfUnits_of_fit (h (by decide))
    exact ⟨.raw ek b, by rw [hb]; rfl, ⟨nofun, fun _ => ⟨b, hd, rfl⟩, nofun, nofun, nofun, by omega⟩, rfl, rfl,
      map_unitOfByte_of_areBytes hd⟩
  · obtain ⟨b, hb, hd⟩ := bytesOfUnits_of_fit (h (by decide))
    exact ⟨.view ek b, by rw [hb]; rfl, ⟨nofun, nofun, fun _ => ⟨b, hd, rfl⟩, nofun, nofun, by omega⟩, rfl, rfl,
      map_unitOfByte_of_areBytes hd⟩
  · exact ⟨_, rfl, ⟨nofun, nofun, nofun, fun _ => rfl, nofun, by omega⟩, rfl, rfl, rfl⟩
  · obtain ⟨b, hb, hd⟩ := bytesOfUnits_of_fit (h (by decide))
    exact ⟨.numeric ek b, by rw [hb]; rfl, ⟨nofun, nofun, nofun, nofun, fun _ => ⟨b, hd, rfl⟩, by omega⟩, rfl, rfl,
      map_unitOfByte_of_areBytes hd⟩
  · rename_i h0 h1 h2 h3 h4
    simp only [imp_false] at h0 h1 h2 h3 h4
    have h5 : 5 ≤ tag := by omega
    obtain ⟨n, rfl⟩ : ∃ n : Fin 11, tag = 5 + n.val := ⟨⟨tag - 5, by omega⟩, (Nat.add_sub_of_le h5).symm⟩
    have hn : Fin.ofNat 11 (5 + n.val - 5) = n := by simp
    rw [hn]
    refine ⟨_, rfl, ⟨by omega, by omega, by omega, by omega, by omega, fun m hm => ?_⟩, ?_, rfl, rfl⟩
    · rw [show n = m by omega]
    · simp only [inTag, BitVec.toNat_ofNat]
      omega

/-- A word whose TAG takes bytes refuses an element over 8 bits. -/
theorem operandOfDesc_of_not_fit {desc : Word} {d : List TextUnit} (htag : desc.toNat % 16 ∈ [1, 2, 4])
    (h : ∃ u ∈ d, 256 ≤ u.toNat) : operandOfDesc desc d = none := by
  simp only [List.mem_cons, List.not_mem_nil, or_false] at htag
  simp only [operandOfDesc, descTag_toNat]
  obtain htag | htag | htag := htag <;> simp [htag, bytesOfUnits_of_not_fit h]

end Sys2Proof.Machine

namespace Sys2Proof.Proofs
open Sys2Proof.Machine Sys2Proof.Claims

/-- Settles O40: the reply is `registerRead`, offset by offset. -/
theorem registersReadAsMapped : Obligations.RegistersReadAsMapped := by
  intro s offset rest h
  refine ⟨registerRead s offset, step_cons h, ?_, ?_, ?_, ?_, ?_, ?_, ?_, registerRead_unmapped s⟩
  · rintro rfl; rfl
  · rintro rfl; rfl
  · rintro rfl; rfl
  · rintro rfl
    exact inDesc_toNat_eq_inDescNumber s.inp
  · rintro rfl hlen
    rw [← inElems_length_eq_inLengthNumber] at hlen ⊢
    exact lengthWord_toNat_of_lt _ _ hlen
  · rintro rfl
    exact outDesc_toNat_eq_outDescNumber s.out
  · rintro rfl hlen
    rw [← outElems_length_eq_outLengthNumber] at hlen ⊢
    exact lengthWord_toNat_of_lt _ _ hlen

/-- Settles O41: offset 0 is the CMD write; of the others only the two of the IN port are not ignored. -/
theorem registerWritesAreCmdOrIgnored : Obligations.RegisterWritesAreCmdOrIgnored := by
  intro s offset v rest h
  rw [step_cons h]
  refine ⟨?_, ?_, ?_⟩
  · rintro rfl
    rfl
  · rintro (rfl | rfl) <;> rfl
  · rintro ⟨hcmd, hdesc, hlen⟩
    obtain ⟨n, rfl⟩ := Nat.exists_eq_succ_of_ne_zero hcmd
    exact hostWriteReg_ignored _ hdesc hlen

/-- Settles O42: SetIN is `operandOfDesc`, which takes the elements that fit and refuses the others. -/
theorem setInWritesThePortWhole : Obligations.SetInWritesThePortWhole := by
  intro s desc d rest h
  rw [step_cons h]
  refine ⟨fun hfit => ?_, fun htag hbig => ?_⟩
  · obtain ⟨op, hop, hport⟩ := operandOfDesc_of_fit hfit
    refine ⟨op, by simp only [hostAct, hostSetIn, hop], hport.makes, hport.elems, ?_⟩
    rw [inDesc_toNat, hport.tagCode, hport.ekField, BitVec.toNat_ofNat]
    omega
  · simp only [hostAct, hostSetIn, operandOfDesc_of_not_fit htag hbig]

end Sys2Proof.Proofs
end

section
/-!
SUPPORT. When a command is refused for a length (R66, R68), one rule per guard and one lemma per family of meanings; and
`view()` as the claims name it (R100, R104), through which alone a buffer command reads the data of IN.
-/
namespace Sys2Proof.Machine
open Sys2Proof.Claims

/-! ## Well-formed NUMERIC operands and buffers (R100, R104) -/

theorem widthOfCode_code (k : ElemKind) : widthOfCode k.code.toNat = elemWidth k := by
  cases k <;> rfl

/-- The codes 0 to 10 are those that name a kind (R103). -/
theorem code_le_ten_iff (c : BitVec 4) : c.toNat ≤ 10 ↔ ∃ k, ElemKind.ofCode? c = some k := by
  rw [← Option.isSome_iff_exists]
  revert c
  decide

theorem numericKind?_eq_some_iff {ek : BitVec 4} {d : List Byte} {k : ElemKind} :
    numericKind? ek d = some k ↔ ElemKind.ofCode? ek = some k ∧ d.length % elemWidth k = 0 := by
  unfold numericKind?
  cases ElemKind.ofCode? ek with
  | none => simp
  | some k' =>
    by_cases hd : d.length % elemWidth k' = 0
    · simp only [hd, if_true, Option.some.injEq]
      exact ⟨fun h => ⟨h, h ▸ hd⟩, And.left⟩
    · simp only [hd, if_false, Option.some.injEq, reduceCtorEq, false_iff]
      rintro ⟨rfl, h⟩
      exact hd h

/-- The claims' well-formed NUMERIC operand is the one that has a kind (R104). -/
theorem isNumeric_iff {ek : BitVec 4} {d : List Byte} :
    IsNumeric (.numeric ek d) ek d ↔ ∃ k, numericKind? ek d = some k := by
  have width {k} (hk : ElemKind.ofCode? ek = some k) : widthOfCode ek.toNat = elemWidth k := by
    rw [← ElemKind.code_of_ofCode? hk, widthOfCode_code]
  simp only [IsNumeric, true_and, code_le_ten_iff, numericKind?_eq_some_iff]
  constructor
  · rintro ⟨⟨k, hk⟩, hd⟩
    exact ⟨k, hk, width hk ▸ hd⟩
  · rintro ⟨k, hk, hd⟩
    exact ⟨⟨k, hk⟩, width hk ▸ hd⟩

theorem acceptView_numeric {ek : BitVec 4} {d : List Byte} (h : IsNumeric (.numeric ek d) ek d) :
    acceptView (.numeric ek d) = some d := by
  obtain ⟨k, hk⟩ := isNumeric_iff.mp h
  simp only [acceptView, hk]

/-- `view()` accepts exactly the claims' buffers (R100). -/
theorem acceptView_eq_some_iff {i : InOperand} {b : List Byte} : acceptView i = some b ↔ IsBuffer i b := by
  constructor
  · intro h
    cases i with
    | raw ek d => cases h; exact .inl ⟨ek, rfl⟩
    | view ek d => cases h; exact .inr (.inl ⟨ek, rfl⟩)
    | numeric ek d =>
      simp only [acceptView] at h
      split at h <;> cases h
      exact .inr (.inr ⟨ek, isNumeric_iff.mpr ⟨_, ‹_›⟩⟩)
    | text ek d => cases h
    | other tag ek d => cases h
  · rintro (⟨ek, rfl⟩ | ⟨ek, rfl⟩ | ⟨ek, rfl, h⟩)
    · rfl
    · rfl
    · exact acceptView_numeric ⟨rfl, h⟩

/-! ## Length bound (R68) -/

/-- The claims' bound is the model's. -/
theorem withinMax_eq_true_iff_within {s : State} {n : Nat} : withinMax s.params n = true ↔ Within s n :=
  withinMax_iff s.params n

theorem within_mono {s : State} {m n : Nat} (h : Within s n) (hmn : m ≤ n) : Within s m :=
  fun k hk => hmn.trans (h k hk)

theorem within_of_unbounded {s : State} (h : s.params.maxLen = none) (n : Nat) : Within s n := by
  simp [Within, h]

@[simp] theorem within_zero (s : State) : Within s 0 := fun _ _ => Nat.zero_le _

@[simp] theorem within_ensureBuilt (u : TableId) (s : State) (n : Nat) : Within (ensureBuilt u s) n ↔ Within s n := by
  simp [Within]

@[simp] theorem within_detect (s : State) (n : Nat) : Within (detect s) n ↔ Within s n := by
  simp [Within]

/-- A command under the check on IN_LEN is refused by the check, or by what it guards. -/
theorem guardIn_refused_iff {s : State} {k : StepOutcome} :
    (∃ r, guardIn s k = .refused r) ↔ ¬ Within s (inLength s.inp) ∨ ∃ r, k = .refused r := by
  rw [← withinMax_eq_true_iff_within]
  unfold guardIn
  split <;> simp_all

/-- A command under the check on its output length is refused by the check, or by what it guards. -/
theorem guardOut_refused_iff {s : State} {n : Nat} {k : StepOutcome} :
    (∃ r, guardOut s n k = .refused r) ↔ ¬ Within s n ∨ ∃ r, k = .refused r := by
  rw [← withinMax_eq_true_iff_within]
  unfold guardOut
  split <;> simp_all

/-- Where the guarded command is refused for no operand within the bound, the check on IN_LEN decides alone. -/
theorem guardIn_refused_iff_not_within {s : State} {k : StepOutcome}
    (hk : Within s (inLength s.inp) → ¬ ∃ r, k = .refused r) :
    (∃ r, guardIn s k = .refused r) ↔ ¬ Within s (inLength s.inp) := by
  rw [guardIn_refused_iff, or_iff_left_iff_imp]
  exact fun hr hw => hk hw hr

/-! ## Output lengths (R154, R155) -/

theorem encLen_padded (n : Nat) : encLen n true = 4 * ((n + 2) / 3) := by
  simp [encLen]

theorem encLen_unpadded (n : Nat) : encLen n false = (4 * n + 2) / 3 := by
  simp only [encLen, Bool.false_eq_true, false_or]
  split_ifs <;> omega

theorem stripPad_length_le (t : List TextUnit) : (stripPad t).length ≤ t.length := by
  rw [stripPad, List.length_reverse, ← t.length_reverse]
  exact (List.dropWhile_sublist _).length_le

/-- A Base64 decoder writes no more bytes than its operand has characters. -/
theorem decLen_stripPad_le (t : List TextUnit) : decLen (stripPad t).length ≤ t.length := by
  have h : decLen (stripPad t).length ≤ (stripPad t).length := by
    unfold decLen
    split_ifs <;> omega
  exact h.trans (stripPad_length_le t)

/-! ## The buffer commands on an accepted operand -/

theorem execEncHex_of_acceptView {s : State} {b : List Byte} (h : acceptView s.inp = some b) :
    execEncHex s = guardIn s (guardOut s (2 * b.length) (.next (complete s (.text (hexText b))))) := by
  simp only [execEncHex, h]

theorem b64Encode_of_acceptView {v : Variant} {s : State} {b : List Byte} (h : acceptView s.inp = some b) :
    b64Encode v s =
      guardIn s (guardOut s (encLen b.length (padOn v)) (.next (complete s (.text (b64Text v b))))) := by
  simp only [b64Encode, h]

theorem arrayFromEndian_of_partial {k : ElemKind} {ord : ByteOrder} {s : State} {b : List Byte}
    (h : acceptView s.inp = some b) (hb : b.length % elemWidth k ≠ 0) :
    arrayFromEndian k ord s = guardIn s (.next (raiseError s ⟨.incompleteByteSequence, b.length, 0#3⟩)) := by
  rw [← length_mask_eq_mod] at hb
  simp only [arrayFromEndian, h, if_pos hb]

theorem arrayFromEndian_of_whole {k : ElemKind} {ord : ByteOrder} {s : State} {b : List Byte}
    (h : acceptView s.inp = some b) (hb : b.length % elemWidth k = 0) :
    arrayFromEndian k ord s =
      guardIn s (guardOut (detect s) b.length
        (.next (complete (detect s) (.numeric k (reorder (flagOrd s) b (elemWidth k) ord))))) := by
  rw [← length_mask_eq_mod] at hb
  simp only [arrayFromEndian, h, hb, ne_eq, not_true_eq_false, if_false, flagOrd_detect]

/-! ## When each family is refused (R66, R68) -/

theorem execEncHex_refused_iff (s : State) :
    (∃ r, execEncHex s = .refused r) ↔
      ¬ Within s (inLength s.inp) ∨ ∃ b, IsBuffer s.inp b ∧ ¬ Within s (2 * b.length) := by
  simp only [← acceptView_eq_some_iff]
  cases h : acceptView s.inp with
  | none => simp [execEncHex, h, guardIn_refused_iff]
  | some b => simp [execEncHex_of_acceptView h, guardIn_refused_iff, guardOut_refused_iff]

theorem b64Encode_refused_iff (v : Variant) (s : State) :
    (∃ r, b64Encode v s = .refused r) ↔
      ¬ Within s (inLength s.inp) ∨ ∃ b, IsBuffer s.inp b ∧ ¬ Within s (encLen b.length (padOn v)) := by
  simp only [← acceptView_eq_some_iff]
  cases h : acceptView s.inp with
  | none => simp [b64Encode, h, guardIn_refused_iff]
  | some b => simp [b64Encode_of_acceptView h, guardIn_refused_iff, guardOut_refused_iff]

theorem execDecHex_refused_iff (s : State) :
    (∃ r, execDecHex s = .refused r) ↔ ¬ Within s (inLength s.inp) := by
  refine guardIn_refused_iff_not_within fun hw => ?_
  split
  · simp
  · rename_i t ht
    rw [← acceptText_length ht] at hw
    dsimp only
    split
    · simp
    · have hout : Within s (t.length / 2) := within_mono hw (Nat.div_le_self ..)
      rw [guardOut_refused_iff]
      split <;> simp [hout]

theorem b64Decode_refused_iff (v : Variant) (s : State) :
    (∃ r, b64Decode v s = .refused r) ↔ ¬ Within s (inLength s.inp) := by
  refine guardIn_refused_iff_not_within fun hw => ?_
  split
  · simp
  · rename_i t ht
    rw [← acceptText_length ht] at hw
    dsimp only
    split
    · simp
    · have hout : Within s (decLen (stripPad t).length) := within_mono hw (decLen_stripPad_le t)
      rw [guardOut_refused_iff]
      split <;> simp [hout]

theorem hostQuery_refused_iff (result : State → OutResult) (s : State) :
    (∃ r, hostQuery result s = .refused r) ↔ ¬ Within s (inLength s.inp) ∨ ¬ Within s 1 := by
  simp [hostQuery, guardIn_refused_iff, guardOut_refused_iff]

/-- Without the test hooks an override is an illegal command, which is never refused (R205, R76). -/
theorem forceFlag_refused_iff (f : HostFlag) (s : State) :
    (∃ r, forceFlag f s = .refused r) ↔ s.params.testHooks = .present ∧ ¬ Within s (inLength s.inp) := by
  cases hp : s.params.testHooks with
  | absent => simp [forceFlag, hp]
  | present => simp [forceFlag, hp, guardIn_refused_iff, guardOut_refused_iff]

theorem execArrayToEndian_refused_iff (ord : ByteOrder) (s : State) :
    (∃ r, execArrayToEndian ord s = .refused r) ↔ ¬ Within s (inLength s.inp) := by
  refine guardIn_refused_iff_not_within fun hw => ?_
  split
  · simp
  · rename_i k b hb
    rw [← (acceptNumeric_spec hb).1] at hw
    simp [guardOut_refused_iff, hw]

theorem arrayFromEndian_refused_iff (k : ElemKind) (ord : ByteOrder) (s : State) :
    (∃ r, arrayFromEndian k ord s = .refused r) ↔ ¬ Within s (inLength s.inp) := by
  refine guardIn_refused_iff_not_within fun hw => ?_
  split
  · simp
  · rename_i b hb
    rw [← acceptView_length hb] at hw
    split
    · simp
    · simp [guardOut_refused_iff, hw]

/-- No ARRAY_FROM_ENDIAN command is an encoder or a host query. -/
theorem fromEndianCommand_notMem {k : ElemKind} {ord : ByteOrder} {i : Instr} (h : fromEndianCommand k ord = some i) :
    i ∉ [.encHex, .encB64, .encB64Url, .hostIsBig, .hostIsLittle, .hostEndianness] := by
  cases k <;> cases h <;> simp

/-- A command that is not well formed completes as an illegal one (R76, R205). -/
theorem exec_of_not_wellFormed {i : Instr} {s : State} (h : i.wellFormed s.params.testHooks = false) :
    exec i s = illegalCommand s := by
  cases i with
  | testForceLittle | testForceBig =>
    have habsent : s.params.testHooks = .absent := by
      cases hp : s.params.testHooks <;> simp_all [Instr.wellFormed]
    simp only [exec, execTestForceLittle, execTestForceBig, forceFlag, habsent, illegalCommand]
  | _ => cases h

/-! ## A buffer command on two operands of the same bytes (R55, R100) -/

/-- A success depends on IN through the result and the length only. -/
theorem guarded_complete_with_inp {s s' t : State} {a b : InOperand} {n : Nat} {r : OutResult}
    (hlen : inLength b = inLength a)
    (h : guardIn { s with inp := a } (guardOut { s' with inp := a } n (.next (complete { s' with inp := a } r))) =
      .next t) :
    guardIn { s with inp := b } (guardOut { s' with inp := b } n (.next (complete { s' with inp := b } r))) =
      .next { t with inp := b } := by
  obtain ⟨hw, h⟩ := guardIn_eq_next.mp h
  obtain ⟨hout, h⟩ := guardOut_eq_next.mp h
  cases h
  exact guardIn_eq_next.mpr ⟨hlen ▸ hw, guardOut_eq_next.mpr ⟨hout, rfl⟩⟩

/-- An error at an index that 32 bits hold does not depend on what IN holds (R29, R59). -/
theorem guarded_raise_at_with_inp {s t : State} {a b : InOperand} {e : CmdError} (hoff : e.off < 2 ^ 32)
    (hlen : inLength b = inLength a)
    (h : guardIn { s with inp := a } (.next (raiseError { s with inp := a } e)) = .next t) :
    guardIn { s with inp := b } (.next (raiseError { s with inp := b } e)) = .next { t with inp := b } := by
  obtain ⟨hw, h⟩ := guardIn_eq_next.mp h
  cases h
  refine guardIn_eq_next.mpr ⟨hlen ▸ hw, ?_⟩
  simp [raiseError, errOffsetWord_of_lt _ _ hoff]

section SameBytes
variable {s t : State} {a b : InOperand} {d : List Byte}

theorem execEncHex_with_inp (ha : acceptView a = some d) (hb : acceptView b = some d)
    (h : execEncHex { s with inp := a } = .next t) :
    execEncHex { s with inp := b } = .next { t with inp := b } := by
  have hlen : inLength b = inLength a := (acceptView_length hb).symm.trans (acceptView_length ha)
  rw [execEncHex_of_acceptView ha] at h
  rw [execEncHex_of_acceptView hb]
  exact guarded_complete_with_inp hlen h

theorem b64Encode_with_inp {v : Variant} (ha : acceptView a = some d) (hb : acceptView b = some d)
    (h : b64Encode v { s with inp := a } = .next t) :
    b64Encode v { s with inp := b } = .next { t with inp := b } := by
  have hlen : inLength b = inLength a := (acceptView_length hb).symm.trans (acceptView_length ha)
  rw [b64Encode_of_acceptView ha] at h
  rw [b64Encode_of_acceptView hb]
  exact guarded_complete_with_inp hlen h

/-- The bound on the length keeps the index of IncompleteByteSequence within ERR_OFFSET (log 8). -/
theorem arrayFromEndian_with_inp {k : ElemKind} {ord : ByteOrder} (hd : d.length < 2 ^ 32)
    (ha : acceptView a = some d) (hb : acceptView b = some d)
    (h : arrayFromEndian k ord { s with inp := a } = .next t) :
    arrayFromEndian k ord { s with inp := b } = .next { t with inp := b } := by
  have hlen : inLength b = inLength a := (acceptView_length hb).symm.trans (acceptView_length ha)
  by_cases hwhole : d.length % elemWidth k = 0
  · rw [arrayFromEndian_of_whole ha hwhole, detect_with_inp] at h
    rw [arrayFromEndian_of_whole hb hwhole, detect_with_inp]
    exact guarded_complete_with_inp hlen h
  · rw [arrayFromEndian_of_partial ha hwhole] at h
    rw [arrayFromEndian_of_partial hb hwhole]
    exact guarded_raise_at_with_inp hd hlen h

end SameBytes

end Sys2Proof.Machine

namespace Sys2Proof.Proofs
open Sys2Proof.Machine Sys2Proof.Claims

/-- Settles O10, family by family: only an encoder or a host query fixes an output length that IN_LEN does not bound. -/
theorem commandRefusedExactlyBeyondMaxLen : Obligations.CommandRefusedExactlyBeyondMaxLen := by
  intro i s hwf
  induction i using instrFamilies with
  | encHex => exact (execEncHex_refused_iff s).trans (by simp)
  | encB64 => exact (b64Encode_refused_iff .std s).trans (by simp [padOn, encLen_padded])
  | encB64Url => exact (b64Encode_refused_iff .url s).trans (by simp [padOn, encLen_unpadded])
  | decHex => exact (execDecHex_refused_iff s).trans (by simp)
  | decB64 => exact (b64Decode_refused_iff .std s).trans (by simp)
  | decB64Url => exact (b64Decode_refused_iff .url s).trans (by simp)
  | hostIsBig | hostIsLittle | hostEndianness =>
    simp only [exec, execHostIsBig, execHostIsLittle, execHostEndianness, hostQuery_refused_iff]
    simp
  | arrayToEndian ord => exact (execArrayToEndian_refused_iff ord s).trans (by simp)
  | arrayFromEndian k ord i hi =>
    have hnot := fromEndianCommand_notMem hi
    simp only [List.mem_cons, List.not_mem_nil, or_false, not_or] at hnot
    rw [exec_fromEndianCommand hi]
    exact (arrayFromEndian_refused_iff k ord s).trans (by simp [hnot])
  | testForceLittle | testForceBig =>
    have hpresent : s.params.testHooks = .present := of_decide_eq_true hwf
    exact (forceFlag_refused_iff _ s).trans (by simp [hpresent])

/-- Settles O9: no command faults, and by O10 a refusal needs a bound. -/
theorem everyCommandCompletes : Obligations.EveryCommandCompletes := by
  intro i s
  refine ⟨fun hunbounded => ?_, exec_ne_fault i s⟩
  cases hwf : i.wellFormed s.params.testHooks with
  | false => exact ⟨_, exec_of_not_wellFormed hwf⟩
  | true =>
    cases ho : exec i s with
    | next t => exact ⟨t, rfl⟩
    | fault f => exact absurd ho (exec_ne_fault i s f)
    | refused r =>
      have hbeyond := (commandRefusedExactlyBeyondMaxLen i s hwf).mp ⟨r, ho⟩
      simp [within_of_unbounded hunbounded] at hbeyond

/-- Settles O38: `view()` gives the bytes of either operand, and a buffer command reads IN through it alone. -/
theorem numericBufferIsReadAsItsBytes : Obligations.NumericBufferIsReadAsItsBytes := by
  intro i s t ek b hnum hlen hi h
  have hraw : acceptView (.raw ek b) = some b := rfl
  have hview : acceptView (.numeric ek b) = some b := acceptView_numeric hnum
  simp only [List.mem_cons, List.not_mem_nil, or_false] at hi
  obtain (rfl | rfl | rfl) | ⟨k, ord, hi⟩ := hi
  · exact execEncHex_with_inp hraw hview h
  · exact b64Encode_with_inp hraw hview h
  · exact b64Encode_with_inp hraw hview h
  · rw [exec_fromEndianCommand hi] at h ⊢
    exact arrayFromEndian_with_inp hlen hraw hview h

end Sys2Proof.Proofs
end

section
/-!
SUPPORT. The decoder and the encoder as inverses of each other (R80, R74), and the numbers of the words the encoder makes
(R75, R76); with the completion in an error that an illegal word raises (R252).
-/
namespace Sys2Proof
open Sys2Proof.Claims Sys2Proof.Machine

/-! ## The rows of ARRAY_FROM_ENDIAN (R73) -/

/-- A KIND field names a kind by its EK code, and the kind a command. -/
theorem arrayFromEndianOfKind_eq_bind (ord : ByteOrder) (kind : BitVec 4) :
    arrayFromEndianOfKind ord kind = (ElemKind.ofCode? kind).bind (fromEndianCommand · ord) := by
  cases ord <;> decide +revert

theorem encode_fromEndianCommand {k : ElemKind} {ord : ByteOrder} {i : Instr} (h : fromEndianCommand k ord = some i) :
    encode i = wordOfFields k.code ord.code 0x0B#8 := by
  cases k <;> cases h <;> rfl

/-- The number of an ARRAY_FROM_ENDIAN command's word, as R75 gives it. -/
theorem encode_fromEndianCommand_toNat {k : ElemKind} {ord : ByteOrder} {i : Instr}
    (h : fromEndianCommand k ord = some i) :
    (encode i).toNat = 0x0B + ord.code.toNat * 256 + k.code.toNat * 512 := by
  rw [encode_fromEndianCommand h, wordOfFields_toNat, BitVec.toNat_ofNat]
  omega

theorem wellFormed_fromEndianCommand {k : ElemKind} {ord : ByteOrder} {i : Instr}
    (h : fromEndianCommand k ord = some i) (hooks : TestHooks) : i.wellFormed hooks = true := by
  cases k <;> cases h <;> rfl

/-- A KIND field that gives a command is the one the command encodes to. -/
theorem encode_arrayFromEndianOfKind {o : BitVec 1} {kind : BitVec 4} {i : Instr}
    (h : arrayFromEndianOfKind (ByteOrder.ofCode o) kind = some i) (hooks : TestHooks) :
    i.wellFormed hooks = true ∧ encode i = wordOfFields kind o 0x0B#8 := by
  rw [arrayFromEndianOfKind_eq_bind, Option.bind_eq_some_iff] at h
  obtain ⟨k, hk, hi⟩ := h
  refine ⟨wellFormed_fromEndianCommand hi hooks, ?_⟩
  rw [encode_fromEndianCommand hi, ElemKind.code_of_ofCode? hk, ByteOrder.code_ofCode]

/-! ## Decoding -/

/-- The checks of R80 on ORD, KIND and the test hooks. -/
structure FieldsAllowed (hooks : TestHooks) (op : BitVec 8) (ord : BitVec 1) (kind : BitVec 4) : Prop where
  hooks : op = 0x0C#8 ∨ op = 0x0D#8 → hooks = .present
  ord : op ≠ 0x0A#8 → op ≠ 0x0B#8 → ord = 0#1
  kind : op ≠ 0x0B#8 → kind = 0#4

/-- A word that decodes is one with allowed fields whose opcode has the command. -/
theorem fields_of_decode_ok {hooks : TestHooks} {w : Word} {i : Instr} (h : decode hooks w = .ok i) :
    ∃ op ord kind, w = wordOfFields kind ord op ∧ FieldsAllowed hooks op ord kind ∧
      commandOfOp op (ByteOrder.ofCode ord) kind = .ok i := by
  unfold decode at h
  dsimp only at h
  split_ifs at h with hrsv hop hhooks hord hkind
  refine ⟨_, _, _, word_eq_wordOfFields w (not_not.mp hrsv), ⟨?_, ?_, ?_⟩, h⟩
  · intro h'
    cases hooks with
    | present => rfl
    | absent => exact absurd ⟨h', rfl⟩ hhooks
  · intro ha hb
    by_contra hne
    exact hord ⟨⟨ha, hb⟩, hne⟩
  · intro hb
    by_contra hne
    exact hkind ⟨hb, hne⟩

theorem eq_ofNat_of_toNat_eq {n m : Nat} {x : BitVec n} (h : x.toNat = m) : x = BitVec.ofNat n m := by
  rw [← h, BitVec.ofNat_toNat, BitVec.setWidth_eq]

/-- A command that an opcode has with allowed fields is well formed and encodes to the fields (R74). -/
theorem encode_commandOfOp {hooks : TestHooks} {op : BitVec 8} {o : BitVec 1} {kind : BitVec 4} {i : Instr}
    (hf : FieldsAllowed hooks op o kind) (h : commandOfOp op (ByteOrder.ofCode o) kind = .ok i) :
    i.wellFormed hooks = true ∧ encode i = wordOfFields kind o op := by
  obtain ⟨hhooks, hord, hkind⟩ := hf
  unfold commandOfOp at h
  split at h
  case h_11 hop =>
    obtain rfl := eq_ofNat_of_toNat_eq hop
    split at h <;> cases h
    exact encode_arrayFromEndianOfKind ‹_› hooks
  case h_10 hop =>
    obtain rfl := eq_ofNat_of_toNat_eq hop
    obtain rfl := hkind (by decide)
    cases h
    simp [encode, Instr.wellFormed]
  case h_14 => cases h
  all_goals
    rename_i hop
    obtain rfl := eq_ofNat_of_toNat_eq hop
    obtain rfl := hord (by decide) (by decide)
    obtain rfl := hkind (by decide)
    cases h
    simp [Instr.wellFormed, encode, hhooks]

open Laws.DecodeEncode in
/-- Every well-formed command's word decodes to the command. -/
theorem decode_encode (i : Instr) : Laws.DecodeEncode.Statement i :=
  Instr.casesOn i encHex decHex encB64 decB64 encB64Url decB64Url hostIsBig hostIsLittle hostEndianness arrayToEndian
    arrayFromEndianInt8 arrayFromEndianUint8 arrayFromEndianInt16 arrayFromEndianUint16 arrayFromEndianInt32
    arrayFromEndianUint32 arrayFromEndianInt64 arrayFromEndianUint64 arrayFromEndianFloat32 arrayFromEndianFloat64
    testForceLittle testForceBig

/-- Decoding is the inverse of encoding on the well-formed commands. -/
theorem decode_eq_ok_iff {hooks : TestHooks} {w : Word} {i : Instr} :
    decode hooks w = .ok i ↔ i.wellFormed hooks = true ∧ encode i = w := by
  constructor
  · intro h
    obtain ⟨op, ord, kind, rfl, hf, hi⟩ := fields_of_decode_ok h
    exact encode_commandOfOp hf hi
  · rintro ⟨hwf, rfl⟩
    exact decode_encode i hooks hwf

theorem wellFormed_present (i : Instr) : i.wellFormed .present = true := by
  cases i <;> rfl

/-! ## The numbers of the encoder's words (R75, R76) -/

theorem ByteOrder.code_le_one (o : ByteOrder) : o.code.toNat ≤ 1 := by
  cases o <;> decide

theorem exists_order_of_le_one {n : Nat} (h : n ≤ 1) : ∃ o : ByteOrder, o.code.toNat = n := by
  obtain rfl | rfl := Nat.le_one_iff_eq_zero_or_eq_one.mp h
  · exact ⟨.little, rfl⟩
  · exact ⟨.big, rfl⟩

/-- The kinds of ARRAY_FROM_ENDIAN have the KIND numbers of R73. -/
theorem fromEndianCommand_kind_number {k : ElemKind} {ord : ByteOrder} {i : Instr}
    (h : fromEndianCommand k ord = some i) : k.code.toNat ≤ 1 ∨ 3 ≤ k.code.toNat ∧ k.code.toNat ≤ 10 := by
  cases k <;> cases h <;> decide

theorem exists_fromEndianCommand_of_number {n : Nat} (h : n ≤ 1 ∨ 3 ≤ n ∧ n ≤ 10) (ord : ByteOrder) :
    ∃ k i, k.code.toNat = n ∧ fromEndianCommand k ord = some i := by
  have hlt : n < 16 := by omega
  obtain ⟨k, hk⟩ := (code_le_ten_iff (BitVec.ofNatLT n hlt)).mp (by rw [BitVec.toNat_ofNatLT]; omega)
  have hn : k.code.toNat = n := by rw [ElemKind.code_of_ofCode? hk, BitVec.toNat_ofNatLT]
  cases k with
  | uint8clamped =>
    have : 2 = n := hn
    omega
  | _ => exact ⟨_, _, hn, rfl⟩

/-- The words of the commands are the ones R75 lists. -/
theorem legalWord_encode (i : Instr) : LegalWord (encode i).toNat := by
  induction i using instrFamilies with
  | arrayToEndian ord => cases ord <;> simp [LegalWord, encode, wordOfFields_toNat, ByteOrder.code]
  | arrayFromEndian k ord i hi =>
    iterate 5 right
    exact ⟨_, _, ord.code_le_one, fromEndianCommand_kind_number hi, encode_fromEndianCommand_toNat hi⟩
  | _ => simp [LegalWord, encode, wordOfFields_toNat]

theorem exists_encode_of_legalWord {n : Nat} (h : LegalWord n) : ∃ i, (encode i).toNat = n := by
  obtain ⟨h1, h9⟩ | rfl | rfl | rfl | rfl | ⟨ord, kind, hord, hkind, rfl⟩ := h
  · interval_cases n
    · exact ⟨.encHex, rfl⟩
    · exact ⟨.decHex, rfl⟩
    · exact ⟨.encB64, rfl⟩
    · exact ⟨.decB64, rfl⟩
    · exact ⟨.encB64Url, rfl⟩
    · exact ⟨.decB64Url, rfl⟩
    · exact ⟨.hostIsBig, rfl⟩
    · exact ⟨.hostIsLittle, rfl⟩
    · exact ⟨.hostEndianness, rfl⟩
  · exact ⟨.testForceLittle, rfl⟩
  · exact ⟨.testForceBig, rfl⟩
  · exact ⟨.arrayToEndian .little, rfl⟩
  · exact ⟨.arrayToEndian .big, rfl⟩
  · obtain ⟨o, rfl⟩ := exists_order_of_le_one hord
    obtain ⟨k, i, rfl, hi⟩ := exists_fromEndianCommand_of_number hkind o
    exact ⟨i, encode_fromEndianCommand_toNat hi⟩

/-- The word of a command that is well formed meets no condition of R76. -/
theorem not_illegalFields_encode {hooks : TestHooks} {i : Instr} (hwf : i.wellFormed hooks = true) :
    ¬ IllegalFields hooks (encode i).toNat := by
  induction i using instrFamilies with
  | arrayToEndian ord => cases ord <;> simp [IllegalFields, encode, wordOfFields_toNat, ByteOrder.code]
  | arrayFromEndian k ord i hi =>
    have hord := ord.code_le_one
    have hkind := fromEndianCommand_kind_number hi
    simp only [encode_fromEndianCommand_toNat hi, IllegalFields]
    omega
  | testForceLittle | testForceBig =>
    have hpresent : hooks = .present := of_decide_eq_true hwf
    simp [IllegalFields, encode, wordOfFields_toNat, hpresent]
  | _ => simp [IllegalFields, encode, wordOfFields_toNat]

theorem decode_error_of_illegalFields {hooks : TestHooks} {w : Word} (h : IllegalFields hooks w.toNat) :
    ∃ r, decode hooks w = .error r := by
  cases hd : decode hooks w with
  | error r => exact ⟨r, rfl⟩
  | ok i =>
    obtain ⟨hwf, rfl⟩ := decode_eq_ok_iff.mp hd
    exact absurd h (not_illegalFields_encode hwf)

end Sys2Proof

namespace Sys2Proof.Machine
open Sys2Proof.Claims

/-! ## Completion in an error (R252) -/

/-- `raise` is the claims' completion in an error (R252). -/
theorem endsInError_raiseError (s : State) (e : CmdError) :
    EndsInError (.next (raiseError s e)) s (errCode e.kind).toNat e.run.toNat e.off :=
  ⟨errOffsetWord s.cmd s.inp e.off, by rw [raiseError, statusWord_eq_ofNat], errOffsetWord_of_lt s.cmd s.inp⟩

theorem hostWriteCmd_of_error {s : State} {w : Word} {r : IllegalWord} (h : decode s.params.testHooks w = .error r) :
    hostWriteCmd w s = illegalCommand { s with cmd := w } := by
  simp only [hostWriteCmd, h]

end Sys2Proof.Machine

namespace Sys2Proof.Proofs
open Sys2Proof.Machine Sys2Proof.Claims

/-- Settles O3, from the decoder's checks in one direction and command by command in the other. -/
theorem decodeAndEncodeAgree : Obligations.DecodeAndEncodeAgree :=
  fun _ _ _ => decode_eq_ok_iff

/-- Settles O2: by O3 the words that decode are the encoder's, and those are the listed ones. -/
theorem legalWordsAreExactlyTheListed : Obligations.LegalWordsAreExactlyTheListed := by
  intro w
  simp only [decode_eq_ok_iff, wellFormed_present, true_and]
  constructor
  · rintro ⟨i, rfl⟩
    exact legalWord_encode i
  · intro h
    obtain ⟨i, hi⟩ := exists_encode_of_legalWord h
    exact ⟨i, BitVec.eq_of_toNat_eq hi⟩

/-- Settles O5: no word of a well-formed command meets a condition of R76, so by O3 the word does not decode. -/
theorem illegalWordOnlyRaisesIllegalCommand : Obligations.IllegalWordOnlyRaisesIllegalCommand := by
  intro s w rest hs hw
  obtain ⟨r, hr⟩ := decode_error_of_illegalFields hw
  rw [(step_cons hs).trans (hostWriteCmd_of_error hr)]
  exact endsInError_raiseError _ _

/-- Settles O1: the decoder computes each of the words. -/
theorem writtenOutWordsDecode : Obligations.WrittenOutWordsDecode :=
  ⟨rfl, rfl, rfl, rfl, rfl, rfl, rfl, rfl, rfl, rfl⟩

end Sys2Proof.Proofs
end

section
/-!
SUPPORT. Acceptance of the operand (R107): a command that does not accept IN raises its error before any side effect, and
one that does accept IN ends in no acceptance error. From this the statements on decoder tables and acceptance errors.
-/
namespace Sys2Proof.Machine
open Sys2Proof.Claims

/-! ## Text operands (R105) -/

/-- `text()` accepts exactly the claims' text operands (R105). -/
theorem acceptText_eq_some_iff {i : InOperand} {x : List TextUnit} : acceptText i = some x ↔ IsText i x := by
  cases i <;> simp [acceptText, IsText]

theorem acceptText_eq_none_iff {i : InOperand} : acceptText i = none ↔ ∀ x, ¬ IsText i x := by
  simp only [Option.eq_none_iff_forall_ne_some, ne_eq, acceptText_eq_some_iff]

/-! ## Completion after acceptance (R107) -/

/-- The errors by which a command rejects its operand (R107). -/
def ErrorKind.Rejects (k : ErrorKind) : Prop :=
  k = .unsupportedType ∨ k = .expectingString

/-- The codes of the rejecting errors are 1 and 3 (R250). -/
theorem errCode_one_or_three_iff (k : ErrorKind) : errCode k = 1#4 ∨ errCode k = 3#4 ↔ k.Rejects := by
  cases k <;> simp [errCode, ErrorKind.Rejects]

/-- A command that has accepted its operand completed from `s'`: by success, or by an error that rejects no operand. -/
inductive Accepted (s' : State) : State → Prop where
  | success (r : OutResult) : Accepted s' (complete s' r)
  | error {e : CmdError} (h : ¬ e.kind.Rejects) : Accepted s' (raiseError s' e)

theorem Accepted.tableKept {s' t : State} (h : Accepted s' t) (u : TableId) : TableKept u s' t := by
  cases h <;> cases u <;> exact ⟨rfl, rfl⟩

theorem Accepted.statusErr_ne {s' t : State} (h : Accepted s' t) :
    ¬ (statusErr t.status = 1#4 ∨ statusErr t.status = 3#4) := by
  cases h with
  | success r => simp
  | error h => simpa [errCode_one_or_three_iff] using h

/-- The two states differ at most in OUT, STATUS and ERR_OFFSET. -/
def OnlyResultChanged (s t : State) : Prop :=
  t = { s with out := t.out, status := t.status, errOffset := t.errOffset }

theorem Completed.onlyResultChanged {s t : State} (h : Completed s t) : OnlyResultChanged s t := by
  cases h <;> rfl

theorem onlyResultChanged_raiseError (s : State) (e : CmdError) : OnlyResultChanged s (raiseError s e) := rfl

/-! ## The decoders (R125, R172) -/

/-- Decoding accepted Base64 text fails by no rejecting error (R172). -/
theorem b64Bytes_error_not_rejects {tbl : RevTable} {off : Nat} {x : List TextUnit} {e : CmdError}
    (h : b64Bytes tbl off x = .error e) : ¬ e.kind.Rejects := by
  fun_induction b64Bytes tbl off x with
  | case1 | case4 | case5 | case7 | case8 | case10 => cases h; simp [ErrorKind.Rejects]
  | case2 | case6 | case9 | case11 => cases h
  | case3 off c0 c1 c2 c3 rest hok e' he ih => cases h; exact ih he

theorem execDecHex_of_not_text {s : State} (hx : acceptText s.inp = none) :
    execDecHex s = guardIn s (.next (raiseError s ⟨.expectingString, 0, 0#3⟩)) := by
  simp only [execDecHex, hx]

theorem b64Decode_of_not_text {v : Variant} {s : State} (hx : acceptText s.inp = none) :
    b64Decode v s = guardIn s (.next (raiseError s ⟨.expectingString, 0, 0#3⟩)) := by
  simp only [b64Decode, hx]

theorem execDecHex_accepted {s t : State} {x : List TextUnit} (hx : acceptText s.inp = some x)
    (h : execDecHex s = .next t) : Accepted (ensureBuilt .hex s) t := by
  simp only [execDecHex, hx] at h
  obtain ⟨-, h⟩ := guardIn_eq_next.mp h
  split at h
  · cases h; exact .error (by simp [ErrorKind.Rejects])
  · obtain ⟨-, h⟩ := guardOut_eq_next.mp h
    split at h
    · rename_i e he
      cases h
      exact .error (by simp [ErrorKind.Rejects, (hexBytes_error he).1])
    · cases h; exact .success _

theorem b64Decode_accepted {v : Variant} {s t : State} {x : List TextUnit} (hx : acceptText s.inp = some x)
    (h : b64Decode v s = .next t) : Accepted (ensureBuilt (variantTable v) s) t := by
  simp only [b64Decode, hx] at h
  obtain ⟨-, h⟩ := guardIn_eq_next.mp h
  split at h
  · cases h; exact .error (by simp [ErrorKind.Rejects])
  · obtain ⟨-, h⟩ := guardOut_eq_next.mp h
    split at h
    · rename_i e he
      cases h
      exact .error (b64Bytes_error_not_rejects he)
    · cases h; exact .success _

/-- A decoder that does not accept IN raises ExpectingString with no side effect (R107). -/
theorem decoder_rejected {u : TableId} {s t : State} (hx : acceptText s.inp = none)
    (h : exec (decoderOf u) s = .next t) : t = raiseError s ⟨.expectingString, 0, 0#3⟩ := by
  have hg : exec (decoderOf u) s = guardIn s (.next (raiseError s ⟨.expectingString, 0, 0#3⟩)) := by
    cases u with
    | hex => exact execDecHex_of_not_text hx
    | std => exact b64Decode_of_not_text (v := .std) hx
    | url => exact b64Decode_of_not_text (v := .url) hx
  obtain ⟨-, h⟩ := guardIn_eq_next.mp (hg ▸ h)
  cases h
  rfl

/-- A decoder that accepts IN ensures that its table is built, and then completes (R125, R153, R172). -/
theorem decoder_accepted {u : TableId} {s t : State} {x : List TextUnit} (hx : acceptText s.inp = some x)
    (h : exec (decoderOf u) s = .next t) : Accepted (ensureBuilt u s) t := by
  cases u with
  | hex => exact execDecHex_accepted hx h
  | std => exact b64Decode_accepted (v := .std) hx h
  | url => exact b64Decode_accepted (v := .url) hx h

theorem decoder_onlyResult_or_accepted {u : TableId} {s t : State} (h : exec (decoderOf u) s = .next t) :
    OnlyResultChanged s t ∨ Accepted (ensureBuilt u s) t := by
  cases hx : acceptText s.inp with
  | none => rw [decoder_rejected hx h]; exact .inl (onlyResultChanged_raiseError ..)
  | some x => exact .inr (decoder_accepted hx h)

/-- `ensure_built` keeps the contents of a valid table, whatever they are, and builds any other (R153). -/
theorem ensureBuilt_entries (u : TableId) (s : State) :
    tableEntries (ensureBuilt u s) u = if tableValid s u then tableEntries s u else builtTable u := by
  cases h : tableValid s u with
  | true => simp [ensureBuilt_of_valid u s h]
  | false => simp [ensureBuilt_of_not_valid u s h]

/-! ## The endianness commands (R210, R211) -/

theorem execArrayToEndian_onlyResult_or_accepted {ord : ByteOrder} {s t : State} (h : execArrayToEndian ord s = .next t) :
    OnlyResultChanged s t ∨ Accepted (detect s) t := by
  obtain ⟨-, h⟩ := guardIn_eq_next.mp h
  split at h
  · cases h; exact .inl (onlyResultChanged_raiseError ..)
  · cases (guardOut_eq_next.mp h).2
    exact .inr (.success _)

theorem arrayFromEndian_onlyResult_or_accepted {k : ElemKind} {ord : ByteOrder} {s t : State}
    (h : arrayFromEndian k ord s = .next t) : OnlyResultChanged s t ∨ Accepted (detect s) t := by
  obtain ⟨-, h⟩ := guardIn_eq_next.mp h
  split at h
  · cases h; exact .inl (onlyResultChanged_raiseError ..)
  · split at h
    · cases h; exact .inl (onlyResultChanged_raiseError ..)
    · cases (guardOut_eq_next.mp h).2
      exact .inr (.success _)

/-! ## Every command -/

theorem hostQuery_accepted {result : State → OutResult} {s t : State} (h : hostQuery result s = .next t) :
    Accepted (detect s) t :=
  hostQuery_next h ▸ .success _

theorem forceFlag_onlyResult_or_accepted {f : HostFlag} {s t : State} (h : forceFlag f s = .next t) :
    OnlyResultChanged s t ∨ Accepted { s with hostFlag := f } t := by
  obtain ⟨hc, -⟩ | ⟨rfl, -⟩ := forceFlag_next h
  · exact .inl hc.onlyResultChanged
  · exact .inr (.success _)

/-- A command has written its result alone, or it has accepted its operand before its side effect (R107). -/
theorem exec_next_onlyResult_or_accepted {i : Instr} {s t : State} (h : exec i s = .next t) :
    OnlyResultChanged s t ∨ ∃ s', Accepted s' t := by
  have pack {s'} (h : OnlyResultChanged s t ∨ Accepted s' t) : OnlyResultChanged s t ∨ ∃ s', Accepted s' t :=
    h.imp_right fun ha => ⟨s', ha⟩
  induction i using instrFamilies with
  | encHex => exact .inl (execEncHex_next h).onlyResultChanged
  | encB64 | encB64Url => exact .inl (b64Encode_next h).onlyResultChanged
  | decHex => exact pack (decoder_onlyResult_or_accepted (u := .hex) h)
  | decB64 => exact pack (decoder_onlyResult_or_accepted (u := .std) h)
  | decB64Url => exact pack (decoder_onlyResult_or_accepted (u := .url) h)
  | hostIsBig | hostIsLittle | hostEndianness =>
    simp only [exec, execHostIsBig, execHostIsLittle, execHostEndianness] at h
    exact .inr ⟨_, hostQuery_accepted h⟩
  | arrayToEndian ord => exact pack (execArrayToEndian_onlyResult_or_accepted h)
  | arrayFromEndian k ord i hi =>
    rw [exec_fromEndianCommand hi] at h
    exact pack (arrayFromEndian_onlyResult_or_accepted h)
  | testForceLittle | testForceBig => exact pack (forceFlag_onlyResult_or_accepted h)

end Sys2Proof.Machine

namespace Sys2Proof.Proofs
open Sys2Proof.Machine Sys2Proof.Claims

/-- Settles O18, for each table by its own decoder: text leads through `ensure_built`, anything else ends before it. -/
theorem decodersBuildTheirTableOnce : Obligations.DecodersBuildTheirTableOnce := by
  intro s t
  have text u (h : exec (decoderOf u) s = .next t) x (hx : IsText s.inp x) :
      tableValid t u = true ∧ tableEntries t u = if tableValid s u then tableEntries s u else builtTable u := by
    obtain ⟨hent, hval⟩ := (decoder_accepted (acceptText_eq_some_iff.mpr hx) h).tableKept u
    exact ⟨hval.trans (ensureBuilt_valid u s), hent.trans (ensureBuilt_entries u s)⟩
  have noText u (h : exec (decoderOf u) s = .next t) (hx : ∀ x, ¬ IsText s.inp x) :
      tableValid t u = tableValid s u ∧ tableEntries t u = tableEntries s u := by
    rw [decoder_rejected (acceptText_eq_none_iff.mpr hx) h]
    cases u <;> exact ⟨rfl, rfl⟩
  exact ⟨fun h => ⟨text .hex h, noText .hex h⟩, fun h => ⟨text .std h, noText .std h⟩,
    fun h => ⟨text .url h, noText .url h⟩⟩

/-- Settles O39: a command that has accepted its operand ends in neither error, and any other has no side effect. -/
theorem acceptanceErrorsHaveNoSideEffect : Obligations.AcceptanceErrorsHaveNoSideEffect := by
  intro i s t h herr
  obtain hs | ⟨s', ha⟩ := exec_next_onlyResult_or_accepted h
  · exact hs
  · exact absurd herr ha.statusErr_ne

end Sys2Proof.Proofs
end

section
/-!
SUPPORT. The tables entry by entry against the claims' arithmetic (R120, R121, R150, R152), and the hex commands by the
claims' digits and values (R124, R125, R127).
-/
namespace Sys2Proof.Machine
open Sys2Proof.Claims

/-! ## Hex digits (R120, R121) -/

theorem hexDigits_eq_hexChar (d : Fin 16) : hexDigits[d] = hexChar d.val := by
  revert d; decide

/-- The value of a digit's character is the digit. -/
theorem hexValue_hexChar {d : Nat} (h : d < 16) : hexValue (hexChar d) = some d := by
  have all : ∀ d : Fin 16, hexValue (hexChar d.val) = some d.val := by decide
  exact all ⟨d, h⟩

theorem hexValue_lt {u : TextUnit} {v : Nat} (h : hexValue u = some v) : v < 16 := by
  unfold hexValue at h
  split_ifs at h <;> cases h <;> omega

/-- Every hex digit is ASCII. -/
theorem hexValue_of_not_ascii {u : TextUnit} (h : 128 ≤ u.toNat) : hexValue u = none := by
  rw [hexValue, if_neg (by omega), if_neg (by omega), if_neg (by omega)]

/-- The entry of HEX_TBL is the digit value, or the sentinel 255 (R120). -/
theorem hexEntry_toNat (u : TextUnit) : hexEntry u.toNat = BitVec.ofNat 8 ((hexValue u).getD 255) := by
  unfold hexEntry hexValue
  split_ifs <;> rfl

theorem lookup_builtTable_hex (u : TextUnit) :
    lookup (builtTable .hex) u = BitVec.ofNat 8 ((hexValue u).getD 255) := by
  rw [builtTable, lookup_tableOf]
  split
  · exact hexEntry_toNat u
  · rw [hexValue_of_not_ascii (by omega)]
    rfl

theorem lookup_builtTable_hex_of_value {u : TextUnit} {v : Nat} (h : hexValue u = some v) :
    lookup (builtTable .hex) u = BitVec.ofNat 8 v := by
  rw [lookup_builtTable_hex, h, Option.getD_some]

/-- The sentinel marks exactly the code units that are no digit (R120). -/
theorem lookup_builtTable_hex_eq_sentinel_iff (u : TextUnit) :
    lookup (builtTable .hex) u = sentinel ↔ hexValue u = none := by
  rw [lookup_builtTable_hex]
  cases h : hexValue u with
  | none => simp [sentinel]
  | some v =>
    have hv : v < 16 := hexValue_lt h
    have hne : BitVec.ofNat 8 v ≠ sentinel := by
      unfold sentinel
      bv_omega
    simpa using hne

/-! ## The Base64 alphabets (R150, R152) -/

theorem alphabet_eq_b64Char (v : Variant) (i : Fin 64) : (alphabet v)[i] = b64Char v i.val := by
  cases v <;> revert i <;> decide

/-- The first index of the alphabet that holds a code unit is the unit's 6-bit value (R152). -/
theorem findIdx?_alphabet (v : Variant) (u : TextUnit) :
    (alphabet v).toList.findIdx? (fun c => c.toNat == u.toNat) = b64Value v u := by
  have entry (i : Nat) (h : i < 64) : (alphabet v)[i] = b64Char v i := alphabet_eq_b64Char v ⟨i, h⟩
  have holds (i : Nat) (h : i < 64) : (alphabet v)[i].toNat = u.toNat ↔ u = b64Char v i := by
    rw [entry i h, BitVec.toNat_inj, eq_comm]
  ext i
  simp [b64Value, List.findIdx?_eq_some_iff_getElem, holds, List.find?_range_eq_some]

theorem alphaEntry_toNat (v : Variant) (u : TextUnit) :
    alphaEntry (alphabet v) u.toNat = BitVec.ofNat 8 ((b64Value v u).getD 255) := by
  rw [alphaEntry, findIdx?_alphabet]
  cases b64Value v u <;> rfl

/-! ## ENC_HEX (R122, R124) -/

theorem acceptView_eq_none_iff {i : InOperand} : acceptView i = none ↔ ∀ b, ¬ IsBuffer i b := by
  simp only [Option.eq_none_iff_forall_ne_some, ne_eq, acceptView_eq_some_iff]

theorem hexPair_eq_hexChar (x : Byte) : hexPair x = [hexChar (x.toNat / 16), hexChar (x.toNat % 16)] := by
  have hx : x.toNat / 16 % 16 = x.toNat / 16 := Nat.mod_eq_of_lt (by have := x.isLt; omega)
  have hi : (nibble x.toNat 4).val = x.toNat / 16 := (nibble_val _ _).trans hx
  have lo : (nibble x.toNat 0).val = x.toNat % 16 := by simp [nibble_val]
  rw [hexPair, hexDigits_eq_hexChar, hexDigits_eq_hexChar, hi, lo]

/-- ENC_HEX writes the claims' characters (R124). -/
theorem hexText_eq_flatMap_hexChar (b : List Byte) :
    hexText b = b.flatMap fun x => [hexChar (x.toNat / 16), hexChar (x.toNat % 16)] := by
  rw [hexText, funext hexPair_eq_hexChar]

theorem execEncHex_of_within {s : State} {b : List Byte} (hb : IsBuffer s.inp b) (hw : Within s (2 * b.length)) :
    execEncHex s = .next (complete s (.text (hexText b))) := by
  have hview := acceptView_eq_some_iff.mpr hb
  have hin : Within s (inLength s.inp) := acceptView_length hview ▸ within_mono hw (by omega)
  rw [execEncHex_of_acceptView hview, guardIn_of_within (withinMax_eq_true_iff_within.mpr hin),
    guardOut_of_within (withinMax_eq_true_iff_within.mpr hw)]

theorem execEncHex_of_not_buffer {s : State} (hb : ∀ b, ¬ IsBuffer s.inp b) (hw : Within s (inLength s.inp)) :
    execEncHex s = .next (raiseError s ⟨.unsupportedType, 0, 0#3⟩) := by
  simp only [execEncHex, acceptView_eq_none_iff.mpr hb, guardIn_of_within (withinMax_eq_true_iff_within.mpr hw)]

/-- The text that ENC_HEX leaves is the text of IN's bytes (R124). -/
theorem execEncHex_text {s t : State} {b : List Byte} {u : List TextUnit} (hb : IsBuffer s.inp b)
    (h : execEncHex s = .next t) (hu : t.out = .text u) : u = hexText b := by
  rw [execEncHex_of_acceptView (acceptView_eq_some_iff.mpr hb)] at h
  obtain ⟨-, h⟩ := guardIn_eq_next.mp h
  obtain ⟨-, h⟩ := guardOut_eq_next.mp h
  cases h
  cases hu
  rfl

/-! ## The first unit without a value -/

@[simp] theorem not_firstBadAt_nil (value : TextUnit → Option Nat) (p : Nat) : ¬ FirstBadAt value [] p := by
  simp [FirstBadAt]

@[simp] theorem firstBadAt_cons_zero {value : TextUnit → Option Nat} {c : TextUnit} {t : List TextUnit} :
    FirstBadAt value (c :: t) 0 ↔ value c = none := by
  simp [FirstBadAt]

@[simp] theorem firstBadAt_cons_succ {value : TextUnit → Option Nat} {c : TextUnit} {t : List TextUnit} {p : Nat} :
    FirstBadAt value (c :: t) (p + 1) ↔ value c ≠ none ∧ FirstBadAt value t p := by
  simp [FirstBadAt, and_left_comm]

/-! ## The bytes of a text (R123, R125) -/

theorem hexByte_ofNat {h l : Nat} (hh : h < 16) (hl : l < 16) :
    hexByte (BitVec.ofNat 8 h) (BitVec.ofNat 8 l) = BitVec.ofNat 8 (h * 16 + l) :=
  eq_ofNat_of_toNat_eq (hexByte_toNat h l hh hl)

theorem hexBytes_of_bad_pair {off : Nat} {c0 c1 : TextUnit} {rest : List TextUnit}
    (h : hexValue c0 = none ∨ hexValue c1 = none) :
    hexBytes (builtTable .hex) off (c0 :: c1 :: rest) = .error ⟨.badInput, off, 0#3⟩ := by
  simp only [hexBytes, lookup_builtTable_hex_eq_sentinel_iff, if_pos h]

theorem hexBytes_of_digit_pair {off : Nat} {c0 c1 : TextUnit} {rest : List TextUnit} {v0 v1 : Nat}
    (h0 : hexValue c0 = some v0) (h1 : hexValue c1 = some v1) :
    hexBytes (builtTable .hex) off (c0 :: c1 :: rest) =
      (hexBytes (builtTable .hex) (off + 2) rest).map (BitVec.ofNat 8 (v0 * 16 + v1) :: ·) := by
  have hgood : ¬ (lookup (builtTable .hex) c0 = sentinel ∨ lookup (builtTable .hex) c1 = sentinel) := by
    simp [lookup_builtTable_hex_eq_sentinel_iff, h0, h1]
  rw [hexBytes, if_neg hgood, lookup_builtTable_hex_of_value h0, lookup_builtTable_hex_of_value h1,
    hexByte_ofNat (hexValue_lt h0) (hexValue_lt h1)]
  cases hexBytes (builtTable .hex) (off + 2) rest <;> rfl

/-- The first unit that is no digit stops the decoder at the first index of its pair (R125). -/
theorem hexBytes_of_firstBadAt {t : List TextUnit} (off p : Nat) (hlen : t.length % 2 = 0)
    (h : FirstBadAt hexValue t p) :
    hexBytes (builtTable .hex) off t = .error ⟨.badInput, off + 2 * (p / 2), 0#3⟩ := by
  induction t using List.twoStepInduction generalizing off p with
  | nil => simp at h
  | singleton c => simp at hlen
  | cons_cons c0 c1 rest ih _ =>
    have hlen : rest.length % 2 = 0 := by simp only [List.length_cons] at hlen; omega
    match p with
    | 0 => exact hexBytes_of_bad_pair (.inl (by simpa using h))
    | 1 => exact hexBytes_of_bad_pair (.inr (by simpa using (firstBadAt_cons_succ.mp h).2))
    | p + 2 =>
      simp only [firstBadAt_cons_succ] at h
      obtain ⟨h0, h1, hrest⟩ := h
      obtain ⟨v0, h0⟩ := Option.ne_none_iff_exists'.mp h0
      obtain ⟨v1, h1⟩ := Option.ne_none_iff_exists'.mp h1
      have hoff : off + 2 + 2 * (p / 2) = off + 2 * ((p + 2) / 2) := by omega
      rw [hexBytes_of_digit_pair h0 h1, ih (off + 2) p hlen hrest, hoff]
      rfl

/-- The bytes of a sequence of digit values, two values to a byte (R123). -/
def digitPairs (vs : List Nat) : List Byte :=
  (List.range (vs.length / 2)).map fun j => BitVec.ofNat 8 (vs.getD (2 * j) 0 * 16 + vs.getD (2 * j + 1) 0)

theorem digitPairs_cons_cons (v0 v1 : Nat) (vs : List Nat) :
    digitPairs (v0 :: v1 :: vs) = BitVec.ofNat 8 (v0 * 16 + v1) :: digitPairs vs := by
  have hlen : (v0 :: v1 :: vs).length / 2 = vs.length / 2 + 1 := by simp only [List.length_cons]; omega
  rw [digitPairs, hlen, List.range_succ_eq_map]
  simp [digitPairs, Nat.mul_add]

/-- A text of digits decodes to the bytes of its values (R125). -/
theorem hexBytes_of_values {t : List TextUnit} {vs : List Nat} (off : Nat) (hlen : t.length % 2 = 0)
    (h : t.map hexValue = vs.map some) : hexBytes (builtTable .hex) off t = .ok (digitPairs vs) := by
  induction t using List.twoStepInduction generalizing off vs with
  | nil =>
    obtain rfl : vs = [] := by simpa using h.symm
    rfl
  | singleton c => simp at hlen
  | cons_cons c0 c1 rest ih _ =>
    have hlen : rest.length % 2 = 0 := by simp only [List.length_cons] at hlen; omega
    obtain ⟨v0, vs, rfl, h0, h⟩ := List.map_eq_cons_iff.mp h.symm
    obtain ⟨v1, vs, rfl, h1, h⟩ := List.map_eq_cons_iff.mp h
    rw [hexBytes_of_digit_pair h0.symm h1.symm, ih (off + 2) hlen h.symm, digitPairs_cons_cons]
    rfl

/-- The text of a byte sequence decodes to the byte sequence (R127). -/
theorem hexBytes_hexText (off : Nat) (b : List Byte) : hexBytes (builtTable .hex) off (hexText b) = .ok b := by
  induction b generalizing off with
  | nil => rfl
  | cons x xs ih =>
    have hx : x.toNat < 256 := x.isLt
    have h0 : hexValue (hexChar (x.toNat / 16)) = some (x.toNat / 16) := hexValue_hexChar (by omega)
    have h1 : hexValue (hexChar (x.toNat % 16)) = some (x.toNat % 16) := hexValue_hexChar (by omega)
    have hbyte : BitVec.ofNat 8 (x.toNat / 16 * 16 + x.toNat % 16) = x := (eq_ofNat_of_toNat_eq (by omega)).symm
    have htext : hexText (x :: xs) = hexChar (x.toNat / 16) :: hexChar (x.toNat % 16) :: hexText xs := by
      rw [hexText, List.flatMap_cons, hexPair_eq_hexChar, hexText]
      rfl
    rw [htext, hexBytes_of_digit_pair h0 h1, ih, hbyte]
    rfl

/-! ## DEC_HEX on a text (R125) -/

/-- In a state that meets the invariant HEX_TBL is built after `ensure_built`, whether it was before or not (R153). -/
theorem State.Inv.ensureBuilt_hex {s : State} (h : s.Inv) : ensureBuilt .hex s = Claims.hexBuilt s := by
  cases hv : s.hexValid with
  | true => rw [ensureBuilt_of_valid .hex s hv, Claims.hexBuilt, ← h.hexBuilt hv, ← hv]
  | false => rw [ensureBuilt_of_not_valid .hex s hv]; rfl

theorem endsWith_complete (s : State) (r : OutResult) : EndsWith (.next (complete s r)) s r := rfl

/-- The check on IN_LEN passes a text within the bound (R68). -/
theorem guardIn_of_text {s : State} {t : List TextUnit} {k : StepOutcome} (ht : IsText s.inp t)
    (hw : Within s t.length) : guardIn s k = k := by
  rw [acceptText_length (acceptText_eq_some_iff.mpr ht)] at hw
  exact guardIn_of_within (withinMax_eq_true_iff_within.mpr hw)

theorem execDecHex_of_not_text_within {s : State} (ht : ∀ t, ¬ IsText s.inp t) (hw : Within s (inLength s.inp)) :
    execDecHex s = .next (raiseError s ⟨.expectingString, 0, 0#3⟩) := by
  rw [execDecHex_of_not_text (acceptText_eq_none_iff.mpr ht),
    guardIn_of_within (withinMax_eq_true_iff_within.mpr hw)]

/-- How a decoder ends on the bytes it has read from its text, or on the error it has met (R82, R252). -/
def decodeOutcome (s : State) : Except CmdError (List Byte) → StepOutcome
  | .ok b => .next (complete s (.view b))
  | .error e => .next (raiseError s e)

section DecHexOfText
variable {s : State} {t : List TextUnit} (hs : s.Inv) (ht : IsText s.inp t) (hw : Within s t.length)
include hs ht hw

theorem execDecHex_of_odd (hlen : t.length % 2 = 1) :
    execDecHex s = .next (raiseError (hexBuilt s) ⟨.badInput, t.length, 0#3⟩) := by
  simp only [execDecHex, guardIn_of_text ht hw, acceptText_eq_some_iff.mpr ht, hs.ensureBuilt_hex, if_pos hlen]

theorem execDecHex_of_even (hlen : t.length % 2 = 0) :
    execDecHex s = decodeOutcome (hexBuilt s) (hexBytes (builtTable .hex) 0 t) := by
  have hodd : ¬ t.length % 2 = 1 := by omega
  have hout : Within (hexBuilt s) (t.length / 2) := within_mono (s := s) hw (Nat.div_le_self ..)
  simp only [execDecHex, guardIn_of_text ht hw, acceptText_eq_some_iff.mpr ht, hs.ensureBuilt_hex, if_neg hodd,
    guardOut_of_within (withinMax_eq_true_iff_within.mpr hout)]
  cases h : hexBytes (builtTable .hex) 0 t <;> simp [decodeOutcome, hexBuilt, h]

end DecHexOfText

end Sys2Proof.Machine

namespace Sys2Proof.Proofs
open Sys2Proof.Machine Sys2Proof.Claims

/-- Settles O13: `view()` accepts exactly the buffers, and `hexText` writes the claim's characters. -/
theorem encHexFollowsItsRule : Obligations.EncHexFollowsItsRule := by
  refine ⟨fun _ => rfl, fun s => ⟨fun b hb hw => ?_, fun hb hw => ?_⟩⟩
  · rw [exec, execEncHex_of_within hb hw, hexText_eq_flatMap_hexChar]
    exact endsWith_complete s _
  · rw [exec, execEncHex_of_not_buffer hb hw]
    exact endsInError_raiseError s _

/-- Settles O14, branch by branch of R125. -/
theorem decHexFollowsItsRule : Obligations.DecHexFollowsItsRule := by
  refine ⟨fun _ => rfl, fun s hs => ⟨fun hnot hw => ?_, fun t ht hw => ⟨fun hodd => ?_, fun heven => ⟨?_, ?_⟩⟩⟩⟩
  · rw [exec, execDecHex_of_not_text_within hnot hw]
    exact endsInError_raiseError s _
  · rw [exec, execDecHex_of_odd hs ht hw hodd]
    exact endsInError_raiseError (hexBuilt s) _
  · intro p hp
    rw [exec, execDecHex_of_even hs ht hw heven, hexBytes_of_firstBadAt 0 p heven hp, Nat.zero_add]
    exact endsInError_raiseError (hexBuilt s) _
  · intro vs hvs
    have hlen : t.length = vs.length := by simpa using congrArg List.length hvs
    rw [exec, execDecHex_of_even hs ht hw heven, hexBytes_of_values 0 heven hvs, digitPairs, hlen]
    exact endsWith_complete (hexBuilt s) _

/-- Settles O15: the text is that of the bytes, so each pair of it decodes to its byte. -/
theorem hexRoundTrip : Obligations.HexRoundTrip := by
  intro s t s' b u hb henc hu hs' ht hw
  obtain rfl := execEncHex_text hb henc hu
  have heven : (hexText b).length % 2 = 0 := by simp
  rw [exec, execDecHex_of_even hs' ht hw heven, hexBytes_hexText]
  exact endsWith_complete (hexBuilt s') _

/-- Settles O16: an entry of a built table is its code unit's value, or the sentinel. -/
theorem builtTablesHoldTheirEntries : Obligations.BuiltTablesHoldTheirEntries := by
  intro u h
  have hu : (BitVec.ofNat 16 u).toNat = u := (BitVec.toNat_ofNat u 16).trans (Nat.mod_eq_of_lt (by omega))
  have hex := hexEntry_toNat (BitVec.ofNat 16 u)
  have b64 v := alphaEntry_toNat v (BitVec.ofNat 16 u)
  simp only [hu] at hex b64
  exact ⟨(tableOf_getElem _ u h).trans hex, (tableOf_getElem _ u h).trans (b64 .std),
    (tableOf_getElem _ u h).trans (b64 .url)⟩

/-- Settles O17: the tables list the characters of the claims' arithmetic. -/
theorem constantTablesHoldTheirEntries : Obligations.ConstantTablesHoldTheirEntries :=
  ⟨hexDigits_eq_hexChar, fun i => ⟨alphabet_eq_b64Char .std i, alphabet_eq_b64Char .url i⟩⟩

end Sys2Proof.Proofs
end

section
/-!
SUPPORT. Base64 by the claims' arithmetic on 6-bit values: an encoder writes the characters of its bytes' values (R156, R157,
R160, R161), a decoder reads a text back into values (R158, R159, R172), and the two conversions between bytes and values
undo each other (R175).
-/
namespace Sys2Proof.Machine
open Sys2Proof.Claims

/-! ## Characters and their 6-bit values (R150, R152) -/

/-- The characters of an alphabet are all different. -/
theorem b64Value_b64Char (v : Variant) {i : Nat} (h : i < 64) : b64Value v (b64Char v i) = some i := by
  have all : ∀ i : Fin 64, b64Value v (b64Char v i.val) = some i.val := by cases v <;> decide
  exact all ⟨i, h⟩

theorem b64Value_eq_some_iff {v : Variant} {u : TextUnit} {i : Nat} :
    b64Value v u = some i ↔ i < 64 ∧ u = b64Char v i := by
  constructor
  · intro h
    exact ⟨List.mem_range.mp (List.mem_of_find?_eq_some h), by simpa using List.find?_some h⟩
  · rintro ⟨hi, rfl⟩
    exact b64Value_b64Char v hi

/-- Every character of an alphabet is ASCII. -/
theorem b64Char_toNat_lt {v : Variant} {i : Nat} (h : i < 64) : (b64Char v i).toNat < 128 := by
  rw [← alphabet_eq_b64Char v ⟨i, h⟩]
  exact alphabet_ascii v ⟨i, h⟩

/-- No alphabet holds the padding character (R150). -/
theorem b64Char_ne_pad {v : Variant} {i : Nat} (h : i < 64) : b64Char v i ≠ pad := by
  have all : ∀ i : Fin 64, b64Char v i.val ≠ pad := by cases v <;> decide
  exact all ⟨i, h⟩

/-- A built table gives the value of a code unit, or the sentinel 255 (R106, R152). -/
theorem lookup_builtTable_b64 (v : Variant) (u : TextUnit) :
    lookup (builtTable (variantTable v)) u = BitVec.ofNat 8 ((b64Value v u).getD 255) := by
  have htable : builtTable (variantTable v) = tableOf (alphaEntry (alphabet v)) := by cases v <;> rfl
  rw [htable, lookup_tableOf]
  split
  · exact alphaEntry_toNat v u
  next hu =>
    have hnone : b64Value v u = none := by
      refine Option.eq_none_iff_forall_ne_some.mpr fun i hi => ?_
      obtain ⟨hlt, rfl⟩ := b64Value_eq_some_iff.mp hi
      exact hu (lt_trans (b64Char_toNat_lt hlt) (by decide))
    rw [hnone]
    rfl

theorem lookup_b64Char (v : Variant) {i : Nat} (h : i < 64) :
    lookup (builtTable (variantTable v)) (b64Char v i) = BitVec.ofNat 8 i := by
  rw [lookup_builtTable_b64, b64Value_b64Char v h, Option.getD_some]

/-- The sentinel is no 6-bit value. -/
theorem ofNat_ne_sentinel {i : Nat} (h : i < 64) : BitVec.ofNat 8 i ≠ sentinel := by
  unfold sentinel
  bv_omega

/-- The sentinel marks exactly the code units outside the alphabet (R152). -/
theorem lookup_builtTable_b64_eq_sentinel_iff (v : Variant) (u : TextUnit) :
    lookup (builtTable (variantTable v)) u = sentinel ↔ b64Value v u = none := by
  rw [lookup_builtTable_b64]
  cases h : b64Value v u with
  | none => simp [sentinel]
  | some i => simpa using ofNat_ne_sentinel (b64Value_eq_some_iff.mp h).1

/-- A text whose units have these values is the text of the values. -/
theorem map_b64Value_eq_iff {v : Variant} {u : List TextUnit} {vs : List Nat} :
    u.map (b64Value v) = vs.map some ↔ (∀ i ∈ vs, i < 64) ∧ u = vs.map (b64Char v) := by
  induction vs generalizing u with
  | nil => simp
  | cons i vs ih =>
    cases u with
    | nil => simp
    | cons c u =>
      simp only [List.map_cons, List.cons.injEq, b64Value_eq_some_iff, ih, List.forall_mem_cons]
      tauto

/-- A text has a first unit without a value, or a value for each unit. -/
theorem exists_firstBadAt_or_values (value : TextUnit → Option Nat) (t : List TextUnit) :
    (∃ p, FirstBadAt value t p) ∨ ∃ vs : List Nat, t.map value = vs.map some := by
  induction t with
  | nil => exact .inr ⟨[], rfl⟩
  | cons c t ih =>
    cases hc : value c with
    | none => exact .inl ⟨0, firstBadAt_cons_zero.mpr hc⟩
    | some i =>
      obtain ⟨p, hp⟩ | ⟨vs, hvs⟩ := ih
      · exact .inl ⟨p + 1, firstBadAt_cons_succ.mpr ⟨by simp [hc], hp⟩⟩
      · exact .inr ⟨i :: vs, by simp [hc, hvs]⟩

theorem firstBadAt_lt_length {value : TextUnit → Option Nat} {t : List TextUnit} {p : Nat} (h : FirstBadAt value t p) :
    p < t.length := by
  obtain ⟨⟨c, hc, -⟩, -⟩ := h
  exact (List.getElem?_eq_some_iff.mp hc).1

theorem firstBadAt_exists_mem_take {value : TextUnit → Option Nat} {t : List TextUnit} {p n : Nat}
    (h : FirstBadAt value t p) (hp : p < n) : ∃ c ∈ t.take n, value c = none := by
  obtain ⟨⟨c, hc, hnone⟩, -⟩ := h
  exact ⟨c, List.mem_of_getElem? ((List.getElem?_take_of_lt hp).trans hc), hnone⟩

/-! ## The 6-bit values of a byte sequence (R156, R157) -/

/-- The values a byte sequence encodes to: value `j` is field `j mod 4` of group `j div 4`. -/
def sextets (b : List Byte) : List Nat :=
  (List.range ((4 * b.length + 2) / 3)).map fun j => byteGroup b (j / 4) / 64 ^ (3 - j % 4) % 64

theorem b64Chars_eq_map_sextets (v : Variant) (b : List Byte) : b64Chars v b = (sextets b).map (b64Char v) := by
  rw [b64Chars, sextets, List.map_map]
  rfl

theorem sextets_length (b : List Byte) : (sextets b).length = (4 * b.length + 2) / 3 := by
  simp [sextets]

theorem sextets_lt {b : List Byte} : ∀ i ∈ sextets b, i < 64 := by
  simp only [sextets, List.mem_map, forall_exists_index, and_imp]
  rintro _ j _ rfl
  exact Nat.mod_lt _ (by decide)

@[simp] theorem sextets_nil : sextets [] = [] := rfl

theorem sextets_one (b0 : Byte) : sextets [b0] = [b0.toNat / 4, b0.toNat % 4 * 16] := by
  have hfields : sextets [b0] = [b0.toNat * 65536 / 64 ^ 3 % 64, b0.toNat * 65536 / 64 ^ 2 % 64] := by
    simp [sextets, byteGroup, byteAt, List.range_succ]
  have := b0.isLt
  simp only [hfields, List.cons.injEq, and_true]
  omega

theorem sextets_two (b0 b1 : Byte) :
    sextets [b0, b1] = [b0.toNat / 4, b0.toNat % 4 * 16 + b1.toNat / 16, b1.toNat % 16 * 4] := by
  have hfields : sextets [b0, b1] =
      let w := b0.toNat * 65536 + b1.toNat * 256
      [w / 64 ^ 3 % 64, w / 64 ^ 2 % 64, w / 64 ^ 1 % 64] := by
    simp [sextets, byteGroup, byteAt, List.range_succ]
  have := b0.isLt
  have := b1.isLt
  simp only [hfields, List.cons.injEq, and_true]
  omega

/-- The values of a full group come first (R156). -/
theorem sextets_group (b0 b1 b2 : Byte) (b : List Byte) :
    sextets (b0 :: b1 :: b2 :: b) =
      b0.toNat / 4 :: (b0.toNat % 4 * 16 + b1.toNat / 16) :: (b1.toNat % 16 * 4 + b2.toNat / 64) :: b2.toNat % 64 ::
        sextets b := by
  have hlen : (4 * (b0 :: b1 :: b2 :: b).length + 2) / 3 = 4 + (4 * b.length + 2) / 3 := by
    simp only [List.length_cons]
    omega
  have hgroup (g : Nat) : byteGroup (b0 :: b1 :: b2 :: b) (g + 1) = byteGroup b g := rfl
  have hdiv (j : Nat) : (4 + j) / 4 = j / 4 + 1 := by omega
  have hmod (j : Nat) : (4 + j) % 4 = j % 4 := by omega
  rw [sextets, hlen, List.range_add, List.map_append, List.map_map]
  simp only [Function.comp_def, hdiv, hmod, hgroup]
  rw [← sextets]
  have hfields : (List.range 4).map (fun j => byteGroup (b0 :: b1 :: b2 :: b) (j / 4) / 64 ^ (3 - j % 4) % 64) =
      let w := b0.toNat * 65536 + b1.toNat * 256 + b2.toNat
      [w / 64 ^ 3 % 64, w / 64 ^ 2 % 64, w / 64 ^ 1 % 64, w / 64 ^ 0 % 64] := rfl
  have := b0.isLt
  have := b1.isLt
  have := b2.isLt
  simp only [hfields, List.cons_append, List.nil_append, List.cons.injEq, and_true]
  omega

/-- The unpadded length is never 1 more than a multiple of 4 (R154). -/
theorem sextets_length_mod (b : List Byte) : (sextets b).length % 4 ≠ 1 := by
  rw [sextets_length]
  omega

/-! ## The bytes of 6-bit values (R158, R159) -/

@[simp] theorem b64Decoded_nil : b64Decoded [] = [] := rfl

theorem b64Decoded_two {v0 v1 : Nat} (h0 : v0 < 64) (h1 : v1 < 64) :
    b64Decoded [v0, v1] = [BitVec.ofNat 8 (v0 * 4 + v1 / 16)] := by
  have hfields : b64Decoded [v0, v1] = [BitVec.ofNat 8 ((v0 * 262144 + v1 * 4096) / 256 ^ 2 % 256)] := by
    simp [b64Decoded, sextetGroup, List.range_succ]
  rw [hfields]
  congr 2
  omega

theorem b64Decoded_three {v0 v1 v2 : Nat} (h0 : v0 < 64) (h1 : v1 < 64) (h2 : v2 < 64) :
    b64Decoded [v0, v1, v2] = [BitVec.ofNat 8 (v0 * 4 + v1 / 16), BitVec.ofNat 8 (v1 % 16 * 16 + v2 / 4)] := by
  have hfields : b64Decoded [v0, v1, v2] =
      let w := v0 * 262144 + v1 * 4096 + v2 * 64
      [BitVec.ofNat 8 (w / 256 ^ 2 % 256), BitVec.ofNat 8 (w / 256 ^ 1 % 256)] := by
    simp [b64Decoded, sextetGroup, List.range_succ]
  simp only [hfields, List.cons.injEq, and_true]
  constructor <;> congr 1 <;> omega

/-- The bytes of a full group come first (R158). -/
theorem b64Decoded_group {v0 v1 v2 v3 : Nat} (vs : List Nat) (h0 : v0 < 64) (h1 : v1 < 64) (h2 : v2 < 64) (h3 : v3 < 64) :
    b64Decoded (v0 :: v1 :: v2 :: v3 :: vs) =
      BitVec.ofNat 8 (v0 * 4 + v1 / 16) :: BitVec.ofNat 8 (v1 % 16 * 16 + v2 / 4) :: BitVec.ofNat 8 (v2 % 4 * 64 + v3) ::
        b64Decoded vs := by
  have hlen : (v0 :: v1 :: v2 :: v3 :: vs).length * 3 / 4 = 3 + vs.length * 3 / 4 := by
    simp only [List.length_cons]
    omega
  have hgroup (g : Nat) : sextetGroup (v0 :: v1 :: v2 :: v3 :: vs) (g + 1) = sextetGroup vs g := rfl
  have hdiv (j : Nat) : (3 + j) / 3 = j / 3 + 1 := by omega
  have hmod (j : Nat) : (3 + j) % 3 = j % 3 := by omega
  rw [b64Decoded, hlen, List.range_add, List.map_append, List.map_map]
  simp only [Function.comp_def, hdiv, hmod, hgroup]
  rw [← b64Decoded]
  have hfields : (List.range 3).map (fun j =>
        BitVec.ofNat 8 (sextetGroup (v0 :: v1 :: v2 :: v3 :: vs) (j / 3) / 256 ^ (2 - j % 3) % 256)) =
      let w := v0 * 262144 + v1 * 4096 + v2 * 64 + v3
      [BitVec.ofNat 8 (w / 256 ^ 2 % 256), BitVec.ofNat 8 (w / 256 ^ 1 % 256), BitVec.ofNat 8 (w / 256 ^ 0 % 256)] := rfl
  simp only [hfields, List.cons_append, List.nil_append, List.cons.injEq, and_true]
  refine ⟨?_, ?_, ?_⟩ <;> congr 1 <;> omega

@[simp] theorem fillBitsZero_nil : FillBitsZero [] := by simp [FillBitsZero]

@[simp] theorem fillBitsZero_two {v0 v1 : Nat} : FillBitsZero [v0, v1] ↔ v1 % 16 = 0 := by simp [FillBitsZero]

@[simp] theorem fillBitsZero_three {v0 v1 v2 : Nat} : FillBitsZero [v0, v1, v2] ↔ v2 % 4 = 0 := by simp [FillBitsZero]

/-- The fill bits are those of the tail after the full groups (R159). -/
@[simp] theorem fillBitsZero_group {v0 v1 v2 v3 : Nat} {vs : List Nat} :
    FillBitsZero (v0 :: v1 :: v2 :: v3 :: vs) ↔ FillBitsZero vs := by
  cases vs with
  | nil => simp [FillBitsZero]
  | cons v vs =>
    have hmod : (vs.length + 5) % 4 = (vs.length + 1) % 4 := by omega
    simp [FillBitsZero, add_assoc, hmod]

/-! ## Bytes to values and back (R175) -/

/-- Induction on a list by groups of four, a tail of up to three elements at the end. -/
theorem groupInduction {α : Type} {motive : List α → Prop} (nil : motive []) (one : ∀ a, motive [a])
    (two : ∀ a b, motive [a, b]) (three : ∀ a b c, motive [a, b, c])
    (group : ∀ a b c d l, motive l → motive (a :: b :: c :: d :: l)) : ∀ l, motive l
  | [] => nil
  | [a] => one a
  | [a, b] => two a b
  | [a, b, c] => three a b c
  | a :: b :: c :: d :: l => group a b c d l (groupInduction nil one two three group l)

theorem b64Decoded_sextets (b : List Byte) : b64Decoded (sextets b) = b := by
  induction b using b64Text.induct with
  | case1 b0 b1 b2 b ih =>
    have := b0.isLt
    have := b1.isLt
    have := b2.isLt
    rw [sextets_group, b64Decoded_group _ (by omega) (by omega) (by omega) (by omega), ih]
    simp only [List.cons.injEq, and_true]
    refine ⟨?_, ?_, ?_⟩ <;> bv_omega
  | case2 b0 b1 =>
    have := b0.isLt
    have := b1.isLt
    rw [sextets_two, b64Decoded_three (by omega) (by omega) (by omega)]
    simp only [List.cons.injEq, and_true]
    constructor <;> bv_omega
  | case3 b0 =>
    have := b0.isLt
    rw [sextets_one, b64Decoded_two (by omega) (by omega)]
    simp only [List.cons.injEq, and_true]
    bv_omega
  | case4 => rfl

/-- The encoder fills a tail with zero bits (R157). -/
theorem fillBitsZero_sextets (b : List Byte) : FillBitsZero (sextets b) := by
  induction b using b64Text.induct with
  | case1 b0 b1 b2 b ih => simpa [sextets_group] using ih
  | case2 b0 b1 => simp [sextets_two]
  | case3 b0 => simp [sextets_one]
  | case4 => exact fillBitsZero_nil

/-- Bytes decoded from values whose fill bits are zero encode to the values again. -/
theorem sextets_b64Decoded {vs : List Nat} (hlt : ∀ i ∈ vs, i < 64) (hlen : vs.length % 4 ≠ 1) (hfill : FillBitsZero vs) :
    sextets (b64Decoded vs) = vs := by
  induction vs using groupInduction with
  | nil => rfl
  | one v0 => simp at hlen
  | two v0 v1 =>
    simp only [List.forall_mem_cons, fillBitsZero_two] at hlt hfill
    obtain ⟨h0, h1, -⟩ := hlt
    simp only [b64Decoded_two h0 h1, sextets_one, BitVec.toNat_ofNat, List.cons.injEq, and_true]
    omega
  | three v0 v1 v2 =>
    simp only [List.forall_mem_cons, fillBitsZero_three] at hlt hfill
    obtain ⟨h0, h1, h2, -⟩ := hlt
    simp only [b64Decoded_three h0 h1 h2, sextets_two, BitVec.toNat_ofNat, List.cons.injEq, and_true]
    omega
  | group v0 v1 v2 v3 vs ih =>
    simp only [List.forall_mem_cons] at hlt
    obtain ⟨h0, h1, h2, h3, hlt⟩ := hlt
    have hlen : vs.length % 4 ≠ 1 := by simpa [add_assoc] using hlen
    rw [b64Decoded_group vs h0 h1 h2 h3, sextets_group, ih hlt hlen (fillBitsZero_group.mp hfill)]
    simp only [BitVec.toNat_ofNat, List.cons.injEq, and_true]
    omega

/-! ## The characters an encoder writes (R156, R157, R162) -/

theorem alphabet_sextet (v : Variant) (w lo : Nat) : (alphabet v)[sextet w lo] = b64Char v (w / 2 ^ lo % 64) := by
  rw [alphabet_eq_b64Char, sextet_val]

theorem encGroup_eq (v : Variant) (b0 b1 b2 : Byte) : encGroup v b0 b1 b2 = (sextets [b0, b1, b2]).map (b64Char v) := by
  have := b0.isLt
  have := b1.isLt
  have := b2.isLt
  simp only [encGroup, alphabet_sextet, groupWord_eq, sextets_group, sextets_nil, List.map_cons, List.map_nil,
    List.cons.injEq, and_true]
  refine ⟨?_, ?_, ?_, ?_⟩ <;> congr 1 <;> omega

theorem encTail2_eq (v : Variant) (b0 b1 : Byte) :
    encTail2 v b0 b1 = (sextets [b0, b1]).map (b64Char v) ++ b64Padding v 2 := by
  have := b0.isLt
  have := b1.isLt
  have hpad : b64Padding v 2 = if padOn v then [pad] else [] := by cases v <;> rfl
  simp only [encTail2, alphabet_sextet, tailWord_eq, sextets_two, hpad, List.map_cons, List.map_nil]
  congr <;> omega

theorem encTail1_eq (v : Variant) (b0 : Byte) : encTail1 v b0 = (sextets [b0]).map (b64Char v) ++ b64Padding v 1 := by
  have := b0.isLt
  have hpad : b64Padding v 1 = if padOn v then [pad, pad] else [] := by cases v <;> rfl
  simp only [encTail1, alphabet_sextet, Nat.shiftLeft_eq, sextets_one, hpad, List.map_cons, List.map_nil]
  congr <;> omega

/-- An encoder writes the claims' characters and padding (R162). -/
theorem b64Text_eq (v : Variant) (b : List Byte) : b64Text v b = b64Chars v b ++ b64Padding v b.length := by
  rw [b64Chars_eq_map_sextets]
  induction b using b64Text.induct with
  | case1 b0 b1 b2 b ih =>
    have hpad : b64Padding v (b0 :: b1 :: b2 :: b).length = b64Padding v b.length := by simp [b64Padding, add_assoc]
    rw [b64Text, ih, encGroup_eq, hpad, sextets_group, sextets_group]
    simp
  | case2 b0 b1 => exact encTail2_eq v b0 b1
  | case3 b0 => exact encTail1_eq v b0
  | case4 => cases v <;> rfl

/-! ## The text without its trailing padding (R173) -/

/-- Padding at the end of a text does not change what is left without it. -/
theorem stripPad_append_padding (t : List TextUnit) (k : Nat) : stripPad (t ++ List.replicate k pad) = stripPad t := by
  rw [stripPad, List.reverse_append, List.reverse_replicate, List.dropWhile_append_of_pos (by simp), ← stripPad]

theorem stripPad_eq_self {u : List TextUnit} (h : u.getLast? ≠ some pad) : stripPad u = u := by
  rcases List.eq_nil_or_concat u with rfl | ⟨l, c, rfl⟩
  · rfl
  · simp_all [stripPad]

/-- The claims' stripped text is the model's (R173). -/
theorem stripPad_eq_of_isStripped {t u : List TextUnit} (h : IsStripped t u) : stripPad t = u := by
  obtain ⟨⟨k, rfl⟩, hlast⟩ := h
  rw [← pad, stripPad_append_padding, stripPad_eq_self hlast]

theorem b64Padding_eq_replicate (v : Variant) (n : Nat) : ∃ k, b64Padding v n = List.replicate k pad := by
  cases v with
  | std => exact ⟨_, rfl⟩
  | url => exact ⟨0, rfl⟩

/-- A text of characters with padding at its end, stripped. -/
theorem isStripped_chars (v : Variant) {vs : List Nat} (hlt : ∀ i ∈ vs, i < 64) (k : Nat) :
    IsStripped (vs.map (b64Char v) ++ List.replicate k pad) (vs.map (b64Char v)) := by
  refine ⟨⟨k, rfl⟩, fun hlast => ?_⟩
  obtain ⟨i, hi, hpad⟩ := List.mem_map.mp (List.mem_of_getLast? hlast)
  exact b64Char_ne_pad (hlt i hi) hpad

/-! ## The bytes of a text (R158, R159, R172) -/

theorem toNat_ofNat_sextet {i : Nat} (h : i < 64) : (BitVec.ofNat 8 i).toNat = i := by
  rw [BitVec.toNat_ofNat]
  omega

theorem tailByte0_ofNat {v0 v1 : Nat} (h0 : v0 < 64) (h1 : v1 < 64) :
    tailByte0 (BitVec.ofNat 8 v0) (BitVec.ofNat 8 v1) = BitVec.ofNat 8 (v0 * 4 + v1 / 16) := by
  have hor : v0 <<< 2 ||| v1 / 16 = v0 * 4 + v1 / 16 := shiftLeft_or_eq_add v0 (v1 / 16) 2 (by omega)
  rw [tailByte0, toNat_ofNat_sextet h0, toNat_ofNat_sextet h1, Nat.shiftRight_eq_div_pow, hor]

theorem tailByte1_ofNat {v1 v2 : Nat} (h1 : v1 < 64) (h2 : v2 < 64) :
    tailByte1 (BitVec.ofNat 8 v1) (BitVec.ofNat 8 v2) = BitVec.ofNat 8 (v1 % 16 * 16 + v2 / 4) := by
  have hor : (v1 % 16) <<< 4 ||| v2 / 4 = v1 % 16 * 16 + v2 / 4 := shiftLeft_or_eq_add (v1 % 16) (v2 / 4) 4 (by omega)
  rw [tailByte1, toNat_ofNat_sextet h1, toNat_ofNat_sextet h2, Nat.shiftRight_eq_div_pow, hor]

/-- The bytes of a full group are those of the claims (R158). -/
theorem decGroup_ofNat {v0 v1 v2 v3 : Nat} (h0 : v0 < 64) (h1 : v1 < 64) (h2 : v2 < 64) (h3 : v3 < 64) :
    decGroup (BitVec.ofNat 8 v0) (BitVec.ofNat 8 v1) (BitVec.ofNat 8 v2) (BitVec.ofNat 8 v3) =
      b64Decoded [v0, v1, v2, v3] := by
  rw [b64Decoded_group [] h0 h1 h2 h3, decGroup]
  simp only [toNat_ofNat_sextet h0, toNat_ofNat_sextet h1, toNat_ofNat_sextet h2, toNat_ofNat_sextet h3,
    sextetWord_eq v0 v1 v2 v3 h1 h2 h3, Nat.shiftRight_eq_div_pow]
  simp only [b64Decoded_nil, List.cons.injEq, and_true, ← BitVec.toNat_inj, BitVec.toNat_ofNat]
  refine ⟨?_, ?_, ?_⟩ <;> omega

section Lookups
variable {v : Variant} {off : Nat}

/-- A full group with a unit outside the alphabet stops the decoder with RUN = 4 (R158). -/
theorem b64Bytes_of_bad_group {c0 c1 c2 c3 : TextUnit} {rest : List TextUnit}
    (h : b64Value v c0 = none ∨ b64Value v c1 = none ∨ b64Value v c2 = none ∨ b64Value v c3 = none) :
    b64Bytes (builtTable (variantTable v)) off (c0 :: c1 :: c2 :: c3 :: rest) =
      .error ⟨.unsupportedCharacter, off, 4#3⟩ := by
  simp only [b64Bytes, lookup_builtTable_b64_eq_sentinel_iff, if_pos h]

theorem b64Bytes_of_bad_three {c0 c1 c2 : TextUnit}
    (h : b64Value v c0 = none ∨ b64Value v c1 = none ∨ b64Value v c2 = none) :
    b64Bytes (builtTable (variantTable v)) off [c0, c1, c2] = .error ⟨.unsupportedCharacter, off, 3#3⟩ := by
  simp only [b64Bytes, lookup_builtTable_b64_eq_sentinel_iff, if_pos h]

theorem b64Bytes_of_bad_two {c0 c1 : TextUnit} (h : b64Value v c0 = none ∨ b64Value v c1 = none) :
    b64Bytes (builtTable (variantTable v)) off [c0, c1] = .error ⟨.unsupportedCharacter, off, 2#3⟩ := by
  simp only [b64Bytes, lookup_builtTable_b64_eq_sentinel_iff, if_pos h]

/-- A full group of the alphabet's characters gives its bytes before those of the rest (R158). -/
theorem b64Bytes_of_group {v0 v1 v2 v3 : Nat} (rest : List TextUnit) (h0 : v0 < 64) (h1 : v1 < 64) (h2 : v2 < 64)
    (h3 : v3 < 64) :
    b64Bytes (builtTable (variantTable v)) off (b64Char v v0 :: b64Char v v1 :: b64Char v v2 :: b64Char v v3 :: rest) =
      (b64Bytes (builtTable (variantTable v)) (off + 4) rest).map (b64Decoded [v0, v1, v2, v3] ++ ·) := by
  simp only [b64Bytes, lookup_b64Char, h0, h1, h2, h3, ofNat_ne_sentinel, or_self, if_false, decGroup_ofNat]
  cases b64Bytes (builtTable (variantTable v)) (off + 4) rest <;> rfl

theorem b64Bytes_of_three {v0 v1 v2 : Nat} (h0 : v0 < 64) (h1 : v1 < 64) (h2 : v2 < 64) :
    b64Bytes (builtTable (variantTable v)) off [b64Char v v0, b64Char v v1, b64Char v v2] =
      if v2 % 4 = 0 then .ok (b64Decoded [v0, v1, v2]) else .error ⟨.mangledPadding, off + 2, 0#3⟩ := by
  simp only [b64Bytes, lookup_b64Char, h0, h1, h2, ofNat_ne_sentinel, or_self, if_false, toNat_ofNat_sextet,
    tailByte0_ofNat, tailByte1_ofNat, b64Decoded_three, ite_not, ne_eq]

theorem b64Bytes_of_two {v0 v1 : Nat} (h0 : v0 < 64) (h1 : v1 < 64) :
    b64Bytes (builtTable (variantTable v)) off [b64Char v v0, b64Char v v1] =
      if v1 % 16 = 0 then .ok (b64Decoded [v0, v1]) else .error ⟨.mangledPadding, off + 1, 0#3⟩ := by
  simp only [b64Bytes, lookup_b64Char, h0, h1, ofNat_ne_sentinel, or_self, if_false, toNat_ofNat_sextet,
    tailByte0_ofNat, b64Decoded_two, ite_not, ne_eq]

end Lookups

/-- The first unit outside the alphabet stops the decoder at the first index of its group, with the group's length in RUN
(R172). -/
theorem b64Bytes_of_firstBadAt {v : Variant} {u : List TextUnit} (off p : Nat) (hlen : u.length % 4 ≠ 1)
    (h : FirstBadAt (b64Value v) u p) :
    b64Bytes (builtTable (variantTable v)) off u =
      .error ⟨.unsupportedCharacter, off + 4 * (p / 4),
        BitVec.ofNat 3 (if p / 4 < u.length / 4 then 4 else u.length % 4)⟩ := by
  induction u using groupInduction generalizing off p with
  | nil => simp at h
  | one c => simp at hlen
  | two c0 c1 =>
    have hp : p < 2 := firstBadAt_lt_length h
    have hbad : b64Value v c0 = none ∨ b64Value v c1 = none := by simpa using firstBadAt_exists_mem_take h hp
    have hgroup : p / 4 = 0 := by omega
    rw [b64Bytes_of_bad_two hbad, hgroup]
    simp
  | three c0 c1 c2 =>
    have hp : p < 3 := firstBadAt_lt_length h
    have hbad : b64Value v c0 = none ∨ b64Value v c1 = none ∨ b64Value v c2 = none := by
      simpa using firstBadAt_exists_mem_take h hp
    have hgroup : p / 4 = 0 := by omega
    rw [b64Bytes_of_bad_three hbad, hgroup]
    simp
  | group c0 c1 c2 c3 rest ih =>
    obtain hp | ⟨p, rfl⟩ : p < 4 ∨ ∃ q, p = q + 4 :=
      (Nat.lt_or_ge p 4).imp_right Nat.exists_eq_add_of_le'
    · have hbad : b64Value v c0 = none ∨ b64Value v c1 = none ∨ b64Value v c2 = none ∨ b64Value v c3 = none := by
        simpa using firstBadAt_exists_mem_take h hp
      have hgroup : p / 4 = 0 := by omega
      rw [b64Bytes_of_bad_group hbad, hgroup]
      simp
    · have hrestLen : rest.length % 4 ≠ 1 := by simpa [add_assoc] using hlen
      simp only [firstBadAt_cons_succ, Option.ne_none_iff_exists', b64Value_eq_some_iff] at h
      obtain ⟨⟨v0, h0, rfl⟩, ⟨v1, h1, rfl⟩, ⟨v2, h2, rfl⟩, ⟨v3, h3, rfl⟩, hrest⟩ := h
      rw [b64Bytes_of_group rest h0 h1 h2 h3, ih (off + 4) p hrestLen hrest]
      have hoff : off + 4 + 4 * (p / 4) = off + 4 * ((p + 4) / 4) := by omega
      simp [Except.map, hoff, add_assoc]

/-- A text of the alphabet's characters decodes to the bytes of their values, unless a fill bit is set in its tail: the error
is at the last unit of the text (R172). -/
theorem b64Bytes_map_b64Char {v : Variant} {vs : List Nat} (off : Nat) (hlt : ∀ i ∈ vs, i < 64) (hlen : vs.length % 4 ≠ 1) :
    (FillBitsZero vs → b64Bytes (builtTable (variantTable v)) off (vs.map (b64Char v)) = .ok (b64Decoded vs)) ∧
    (¬ FillBitsZero vs → b64Bytes (builtTable (variantTable v)) off (vs.map (b64Char v)) =
      .error ⟨.mangledPadding, off + (vs.length - 1), 0#3⟩) := by
  induction vs using groupInduction generalizing off with
  | nil => exact ⟨fun _ => rfl, (absurd fillBitsZero_nil ·)⟩
  | one v0 => simp at hlen
  | two v0 v1 =>
    simp only [List.forall_mem_cons] at hlt
    obtain ⟨h0, h1, -⟩ := hlt
    rw [fillBitsZero_two]
    exact ⟨fun h => (b64Bytes_of_two h0 h1).trans (if_pos h), fun h => (b64Bytes_of_two h0 h1).trans (if_neg h)⟩
  | three v0 v1 v2 =>
    simp only [List.forall_mem_cons] at hlt
    obtain ⟨h0, h1, h2, -⟩ := hlt
    rw [fillBitsZero_three]
    exact ⟨fun h => (b64Bytes_of_three h0 h1 h2).trans (if_pos h), fun h => (b64Bytes_of_three h0 h1 h2).trans (if_neg h)⟩
  | group v0 v1 v2 v3 vs ih =>
    simp only [List.forall_mem_cons] at hlt
    obtain ⟨h0, h1, h2, h3, hlt⟩ := hlt
    have hrestLen : vs.length % 4 ≠ 1 := by simpa [add_assoc] using hlen
    obtain ⟨ihOk, ihError⟩ := ih (off + 4) hlt hrestLen
    have hgroup : b64Bytes (builtTable (variantTable v)) off ((v0 :: v1 :: v2 :: v3 :: vs).map (b64Char v)) = _ :=
      b64Bytes_of_group (vs.map (b64Char v)) h0 h1 h2 h3
    rw [fillBitsZero_group, hgroup]
    refine ⟨fun hfill => ?_, fun hfill => ?_⟩
    · rw [ihOk hfill, b64Decoded_group [] h0 h1 h2 h3, b64Decoded_group vs h0 h1 h2 h3]
      rfl
    · have hpos : 0 < vs.length := List.length_pos_iff.mpr fun h => hfill (h ▸ fillBitsZero_nil)
      have hoff : off + 4 + (vs.length - 1) = off + ((v0 :: v1 :: v2 :: v3 :: vs).length - 1) := by
        simp only [List.length_cons]
        omega
      rw [ihError hfill, hoff]
      rfl

/-- Only a text of the alphabet's characters with zero fill bits decodes (R172). -/
theorem values_of_b64Bytes_ok {v : Variant} {u : List TextUnit} {b : List Byte} (hlen : u.length % 4 ≠ 1)
    (h : b64Bytes (builtTable (variantTable v)) 0 u = .ok b) :
    ∃ vs : List Nat, (∀ i ∈ vs, i < 64) ∧ FillBitsZero vs ∧ u = vs.map (b64Char v) ∧ b = b64Decoded vs := by
  obtain ⟨p, hp⟩ | ⟨vs, hvs⟩ := exists_firstBadAt_or_values (b64Value v) u
  · cases (b64Bytes_of_firstBadAt 0 p hlen hp).symm.trans h
  · obtain ⟨hlt, rfl⟩ := map_b64Value_eq_iff.mp hvs
    rw [List.length_map] at hlen
    obtain ⟨hok, herror⟩ := b64Bytes_map_b64Char (v := v) 0 hlt hlen
    by_cases hfill : FillBitsZero vs
    · cases (hok hfill).symm.trans h
      exact ⟨vs, hlt, hfill, rfl, rfl⟩
    · cases (herror hfill).symm.trans h

/-- An error of the decoder lies within the text (R172). -/
theorem b64Bytes_error_off_le {tbl : RevTable} {off : Nat} {u : List TextUnit} {e : CmdError}
    (h : b64Bytes tbl off u = .error e) : e.off ≤ off + u.length := by
  fun_induction b64Bytes tbl off u with
  | case1 | case4 | case5 | case7 | case8 | case10 => cases h; simp
  | case2 | case6 | case9 | case11 => cases h
  | case3 off c0 c1 c2 c3 rest hok e' he ih =>
    cases h
    have := ih he
    simp only [List.length_cons]
    omega

/-! ## The encode commands (R160, R161, R162) -/

theorem b64Encode_of_within {v : Variant} {s : State} {b : List Byte} (hb : IsBuffer s.inp b)
    (hw : Within s b.length) (hout : Within s (b64Chars v b ++ b64Padding v b.length).length) :
    b64Encode v s = .next (complete s (.text (b64Chars v b ++ b64Padding v b.length))) := by
  have hview := acceptView_eq_some_iff.mpr hb
  rw [acceptView_length hview] at hw
  rw [← b64Text_eq, b64Text_length] at hout
  rw [b64Encode_of_acceptView hview, guardIn_of_within (withinMax_eq_true_iff_within.mpr hw),
    guardOut_of_within (withinMax_eq_true_iff_within.mpr hout), b64Text_eq]

theorem b64Encode_of_not_buffer {v : Variant} {s : State} (hb : ∀ b, ¬ IsBuffer s.inp b)
    (hw : Within s (inLength s.inp)) : b64Encode v s = .next (raiseError s ⟨.unsupportedType, 0, 0#3⟩) := by
  simp only [b64Encode, acceptView_eq_none_iff.mpr hb, guardIn_of_within (withinMax_eq_true_iff_within.mpr hw)]

/-- The text that an encoder leaves is the text of IN's bytes (R162). -/
theorem b64Encode_text {v : Variant} {s t : State} {b : List Byte} {u : List TextUnit} (hb : IsBuffer s.inp b)
    (h : b64Encode v s = .next t) (hu : t.out = .text u) : u = b64Text v b := by
  rw [b64Encode_of_acceptView (acceptView_eq_some_iff.mpr hb)] at h
  obtain ⟨-, h⟩ := guardIn_eq_next.mp h
  obtain ⟨-, h⟩ := guardOut_eq_next.mp h
  cases h
  cases hu
  rfl

/-- Each encode command is `b64enc` of its variant (R160, R161). -/
theorem encodesBase64 {v : Variant} {i : Instr} (hi : ∀ s, exec i s = b64Encode v s) : EncodesBase64 v i := by
  refine fun s => ⟨fun b hb hw hout => ?_, fun hb hw => ?_⟩
  · rw [hi, b64Encode_of_within hb hw hout]
    exact endsWith_complete s _
  · rw [hi, b64Encode_of_not_buffer hb hw]
    exact endsInError_raiseError s _

/-! ## The decode commands (R170, R171, R172) -/

/-- What a decoder reads from a stripped text: the check of its length comes before its units (R172, R174). -/
def strippedResult (tbl : RevTable) (u : List TextUnit) : Except CmdError (List Byte) :=
  if u.length % 4 = 1 then .error ⟨.invalidLength, u.length, 0#3⟩ else b64Bytes tbl 0 u

theorem strippedResult_error_off_le {tbl : RevTable} {u : List TextUnit} {e : CmdError}
    (h : strippedResult tbl u = .error e) : e.off ≤ u.length := by
  unfold strippedResult at h
  split at h
  · cases h
    exact le_rfl
  · simpa using b64Bytes_error_off_le h

theorem b64Decode_of_text {v : Variant} {s : State} {t : List TextUnit} (ht : IsText s.inp t) (hw : Within s t.length) :
    b64Decode v s =
      decodeOutcome (ensureBuilt (variantTable v) s)
        (strippedResult (tableEntries (ensureBuilt (variantTable v) s) (variantTable v)) (stripPad t)) := by
  have hout : Within (ensureBuilt (variantTable v) s) (decLen (stripPad t).length) :=
    (within_ensureBuilt ..).mpr (within_mono hw (decLen_stripPad_le t))
  simp only [b64Decode, guardIn_of_text ht hw, acceptText_eq_some_iff.mpr ht, strippedResult,
    guardOut_of_within (withinMax_eq_true_iff_within.mpr hout)]
  split
  · rfl
  · cases b64Bytes (tableEntries (ensureBuilt (variantTable v) s) (variantTable v)) 0 (stripPad t) <;> rfl

theorem strippedResult_eq_ok {tbl : RevTable} {u : List TextUnit} {b : List Byte} (h : strippedResult tbl u = .ok b) :
    u.length % 4 ≠ 1 ∧ b64Bytes tbl 0 u = .ok b := by
  unfold strippedResult at h
  split at h
  · cases h
  next hlen => exact ⟨hlen, h⟩

/-- A decoder that leaves bytes in OUT has read them (R252). -/
theorem eq_ok_of_decodeOutcome {s t : State} {r : Except CmdError (List Byte)} {b : List Byte}
    (h : decodeOutcome s r = .next t) (hout : t.out = .view b) : r = .ok b := by
  cases r <;> cases h <;> cases hout
  rfl

/-- A decoder that answers has passed the check on IN_LEN (R68). -/
theorem within_of_b64Decode {v : Variant} {s s' : State} {t : List TextUnit} (ht : IsText s.inp t)
    (h : b64Decode v s = .next s') : Within s t.length := by
  rw [acceptText_length (acceptText_eq_some_iff.mpr ht)]
  exact withinMax_eq_true_iff_within.mp (guardIn_eq_next.mp h).1

/-- In a state that meets the invariant the variant's table is built after `ensure_built` (R153). -/
theorem State.Inv.ensureBuilt_b64 {s : State} (h : s.Inv) (v : Variant) :
    ensureBuilt (variantTable v) s = b64Built v s := by
  cases v with
  | std =>
    cases hv : s.b64StdValid with
    | true => rw [variantTable, ensureBuilt_of_valid .std s hv, b64Built, ← h.stdBuilt hv, ← hv]
    | false => rw [variantTable, ensureBuilt_of_not_valid .std s hv]; rfl
  | url =>
    cases hv : s.b64UrlValid with
    | true => rw [variantTable, ensureBuilt_of_valid .url s hv, b64Built, ← h.urlBuilt hv, ← hv]
    | false => rw [variantTable, ensureBuilt_of_not_valid .url s hv]; rfl

@[simp] theorem tableEntries_b64Built (v : Variant) (s : State) :
    tableEntries (b64Built v s) (variantTable v) = builtTable (variantTable v) := by
  cases v <;> rfl

theorem b64Decode_of_not_text_within {v : Variant} {s : State} (ht : ∀ t, ¬ IsText s.inp t)
    (hw : Within s (inLength s.inp)) : b64Decode v s = .next (raiseError s ⟨.expectingString, 0, 0#3⟩) := by
  rw [b64Decode_of_not_text (acceptText_eq_none_iff.mpr ht), guardIn_of_within (withinMax_eq_true_iff_within.mpr hw)]

section DecodeOfStripped
variable {v : Variant} {s : State} {t u : List TextUnit} (hs : s.Inv) (ht : IsText s.inp t) (hw : Within s t.length)
  (hu : IsStripped t u)
include hs ht hw hu

/-- A decoder reads the stripped text with the built table (R172). -/
theorem b64Decode_of_stripped :
    b64Decode v s = decodeOutcome (b64Built v s) (strippedResult (builtTable (variantTable v)) u) := by
  rw [b64Decode_of_text ht hw, hs.ensureBuilt_b64, tableEntries_b64Built, stripPad_eq_of_isStripped hu]

theorem b64Decode_of_length_one (hlen : u.length % 4 = 1) :
    b64Decode v s = .next (raiseError (b64Built v s) ⟨.invalidLength, u.length, 0#3⟩) := by
  rw [b64Decode_of_stripped hs ht hw hu, strippedResult, if_pos hlen]
  rfl

theorem b64Decode_of_length_ne_one (hlen : u.length % 4 ≠ 1) :
    b64Decode v s = decodeOutcome (b64Built v s) (b64Bytes (builtTable (variantTable v)) 0 u) := by
  rw [b64Decode_of_stripped hs ht hw hu, strippedResult, if_neg hlen]

end DecodeOfStripped

/-- The RUN field is the run length the error is raised with (R28, R252). -/
theorem endsInError_of_run {s : State} {kind : ErrorKind} {run : Nat} (off : Nat) (h : run < 8) :
    EndsInError (.next (raiseError s ⟨kind, off, BitVec.ofNat 3 run⟩)) s (errCode kind).toNat run off := by
  have hrun : (BitVec.ofNat 3 run).toNat = run := by
    rw [BitVec.toNat_ofNat]
    exact Nat.mod_eq_of_lt h
  simpa only [hrun] using endsInError_raiseError s ⟨kind, off, BitVec.ofNat 3 run⟩

/-- Each decode command is `b64dec` of its variant, its errors in the order of R174 (R170, R171, R172). -/
theorem decodesBase64 {v : Variant} {i : Instr} (hi : ∀ s, exec i s = b64Decode v s) : DecodesBase64 v i := by
  intro s hs
  refine ⟨fun hnot hw => ?_, fun t u ht hw hu => ⟨fun hone => ?_, fun hlen => ⟨fun p hp => ?_, fun vs hvs => ?_⟩⟩⟩
  · rw [hi, b64Decode_of_not_text_within hnot hw]
    exact endsInError_raiseError s _
  · rw [hi, b64Decode_of_length_one hs ht hw hu hone]
    exact endsInError_raiseError (b64Built v s) _
  · rw [hi, b64Decode_of_length_ne_one hs ht hw hu hlen, b64Bytes_of_firstBadAt 0 p hlen hp, Nat.zero_add]
    exact endsInError_of_run _ (by split_ifs <;> omega)
  · obtain ⟨hlt, rfl⟩ := map_b64Value_eq_iff.mp hvs
    rw [hi, b64Decode_of_length_ne_one hs ht hw hu hlen]
    rw [List.length_map] at hlen ⊢
    obtain ⟨hok, herror⟩ := b64Bytes_map_b64Char (v := v) 0 hlt hlen
    refine ⟨fun hfill => ?_, fun hfill => ?_⟩
    · rw [herror hfill, Nat.zero_add]
      exact endsInError_raiseError (b64Built v s) _
    · rw [hok hfill]
      exact endsWith_complete (b64Built v s) _

/-- Decoding the text that an encoder of the same variant leaves gives the bytes it encoded (R175). -/
theorem b64Decode_b64Encode {v : Variant} {s t s' : State} {b : List Byte} {u : List TextUnit} (hb : IsBuffer s.inp b)
    (henc : b64Encode v s = .next t) (hu : t.out = .text u) (hs' : s'.Inv) (ht : IsText s'.inp u)
    (hw : Within s' u.length) : b64Decode v s' = .next (complete (b64Built v s') (.view b)) := by
  obtain rfl := b64Encode_text hb henc hu
  have hstripped : IsStripped (b64Text v b) ((sextets b).map (b64Char v)) := by
    obtain ⟨k, hpad⟩ := b64Padding_eq_replicate v b.length
    rw [b64Text_eq, b64Chars_eq_map_sextets, hpad]
    exact isStripped_chars v sextets_lt k
  have hlen := sextets_length_mod b
  rw [b64Decode_of_length_ne_one hs' ht hw hstripped (by rwa [List.length_map]),
    (b64Bytes_map_b64Char 0 sextets_lt hlen).1 (fillBitsZero_sextets b), b64Decoded_sextets]
  rfl

/-- The bytes that a decoder gives encode, by the same variant, to the stripped text they came from. -/
theorem b64Encode_b64Decode {v : Variant} {s t s' : State} {b : List Byte} {x u : List TextUnit} (hs : s.Inv)
    (ht : IsText s.inp x) (hu : IsStripped x u) (hdec : b64Decode v s = .next t) (hout : t.out = .view b)
    (hb : IsBuffer s'.inp b) (hw : Within s' (u ++ b64Padding v b.length).length) :
    b64Encode v s' = .next (complete s' (.text (u ++ b64Padding v b.length))) := by
  rw [b64Decode_of_stripped hs ht (within_of_b64Decode ht hdec) hu] at hdec
  obtain ⟨hlen, hbytes⟩ := strippedResult_eq_ok (eq_ok_of_decodeOutcome hdec hout)
  obtain ⟨vs, hlt, hfill, rfl, rfl⟩ := values_of_b64Bytes_ok hlen hbytes
  rw [List.length_map] at hlen
  have hchars : b64Chars v (b64Decoded vs) = vs.map (b64Char v) := by
    rw [b64Chars_eq_map_sextets, sextets_b64Decoded hlt hlen hfill]
  rw [← hchars] at hw ⊢
  refine b64Encode_of_within hb (within_mono hw ?_) hw
  rw [List.length_append, b64Chars_eq_map_sextets, List.length_map, sextets_length]
  omega

/-! ## Texts that differ in trailing padding only (R173, R176) -/

/-- The table a decoder reads does not depend on what IN holds (R153). -/
theorem tableEntries_ensureBuilt_with_inp (u : TableId) (s : State) (op : InOperand) :
    tableEntries (ensureBuilt u { s with inp := op }) u = tableEntries (ensureBuilt u s) u := by
  rw [ensureBuilt_entries, ensureBuilt_entries]
  cases u <;> rfl

/-- A decoder's OUT and STATUS are fixed by what it reads, and ERR_OFFSET too where 32 bits hold it (R27, R28, R29). -/
theorem decodeOutcome_agrees {s s' t t' : State} {r : Except CmdError (List Byte)} (h : decodeOutcome s r = .next t)
    (h' : decodeOutcome s' r = .next t') :
    t'.out = t.out ∧ t'.status = t.status ∧ ((∀ e, r = .error e → e.off < 2 ^ 32) → t'.errOffset = t.errOffset) := by
  cases r with
  | ok b =>
    cases h
    cases h'
    exact ⟨rfl, rfl, fun _ => rfl⟩
  | error e =>
    cases h
    cases h'
    refine ⟨rfl, rfl, fun hoff => ?_⟩
    rw [raiseError_errOffset, raiseError_errOffset, errOffsetWord_of_lt _ _ (hoff e rfl), errOffsetWord_of_lt _ _ (hoff e rfl)]

theorem b64Decode_ignores_padding {v : Variant} {s t t' : State} {ek : BitVec 4} {x : List TextUnit} {k : Nat}
    (h : b64Decode v { s with inp := .text ek x } = .next t)
    (h' : b64Decode v { s with inp := .text ek (x ++ List.replicate k pad) } = .next t') :
    t'.out = t.out ∧ t'.status = t.status ∧ (x.length < 2 ^ 32 → t'.errOffset = t.errOffset) := by
  rw [b64Decode_of_text ⟨ek, rfl⟩ (within_of_b64Decode ⟨ek, rfl⟩ h), tableEntries_ensureBuilt_with_inp] at h
  rw [b64Decode_of_text ⟨ek, rfl⟩ (within_of_b64Decode ⟨ek, rfl⟩ h'), tableEntries_ensureBuilt_with_inp,
    stripPad_append_padding] at h'
  obtain ⟨hout, hstatus, hoff⟩ := decodeOutcome_agrees h h'
  refine ⟨hout, hstatus, fun hx => hoff fun e he => ?_⟩
  calc e.off ≤ (stripPad x).length := strippedResult_error_off_le he
    _ ≤ x.length := stripPad_length_le x
    _ < 2 ^ 32 := hx

end Sys2Proof.Machine

namespace Sys2Proof.Proofs
open Sys2Proof.Machine Sys2Proof.Claims

/-- Settles O20: the encoder's groups and tail are the claim's 6-bit fields. -/
theorem encB64FollowsItsRule : Obligations.EncB64FollowsItsRule :=
  ⟨fun _ => rfl, encodesBase64 fun _ => rfl⟩

/-- Settles O21, by the same rule with the URL-safe alphabet and no padding. -/
theorem encB64UrlFollowsItsRule : Obligations.EncB64UrlFollowsItsRule :=
  ⟨fun _ => rfl, encodesBase64 fun _ => rfl⟩

/-- Settles O22, clause by clause of R172 with the standard alphabet. -/
theorem decB64FollowsItsRule : Obligations.DecB64FollowsItsRule :=
  ⟨fun _ => rfl, decodesBase64 fun _ => rfl⟩

/-- Settles O23, by the same rule with the URL-safe alphabet. -/
theorem decB64UrlFollowsItsRule : Obligations.DecB64UrlFollowsItsRule :=
  ⟨fun _ => rfl, decodesBase64 fun _ => rfl⟩

/-- Settles O24: the text is that of the bytes, whose length is R154's. -/
theorem encodedLengthIsFixedByInputLength : Obligations.EncodedLengthIsFixedByInputLength := by
  intro s t b u hb hu
  constructor
  · intro h
    obtain rfl := b64Encode_text (v := .std) hb h hu
    rw [b64Text_length, padOn, encLen_padded]
  · intro h
    obtain rfl := b64Encode_text (v := .url) hb h hu
    rw [b64Text_length, padOn, encLen_unpadded]
    split_ifs <;> omega

/-- Settles O25: the text's values are those of the bytes, and give the bytes back. -/
theorem base64RoundTrip : Obligations.Base64RoundTrip := by
  intro s t s' b u hb hu hs' ht hw
  exact ⟨fun h => b64Decode_b64Encode (v := .std) hb h hu hs' ht hw,
    fun h => b64Decode_b64Encode (v := .url) hb h hu hs' ht hw⟩

/-- Settles O26: both texts are the same once stripped. -/
theorem trailingPaddingIsIgnored : Obligations.TrailingPaddingIsIgnored := by
  rintro i s t t' ek x k (rfl | rfl) h h'
  · exact b64Decode_ignores_padding (v := .std) h h'
  · exact b64Decode_ignores_padding (v := .url) h h'

/-- Settles O27: an accepted text is that of its values, which its bytes give back since the fill bits are zero. -/
theorem acceptedTextReencodesToItself : Obligations.AcceptedTextReencodesToItself := by
  intro s t s' b x u hs ht hu hout hb
  refine ⟨fun hdec hw => b64Encode_b64Decode (v := .std) hs ht hu hdec hout hb hw, fun hdec hw => ?_⟩
  have hnopad : u ++ b64Padding .url b.length = u := List.append_nil u
  rw [← hnopad] at hw ⊢
  exact b64Encode_b64Decode (v := .url) hs ht hu hdec hout hb hw

end Sys2Proof.Proofs
end

section
/-!
SUPPORT. Endianness: reordering element by element (R208), the commands within the length bound (R201 to R211), and what
a step does to HOST_FLAG (R200, R290).
-/
namespace Sys2Proof.Machine
open Sys2Proof.Claims

/-! ## Whole elements (R208) -/

/-- One more element in front keeps the elements whole. -/
theorem append_whole {w : Nat} {c b : List Byte} (hc : c.length = w) (hb : b.length % w = 0) :
    (c ++ b).length % w = 0 := by
  rw [List.length_append, hc, Nat.add_mod_left, hb]

/-- Induction on a sequence of whole elements, one element of `w` bytes at a time. -/
theorem wholeElementsInduction {w : Nat} {motive : (b : List Byte) → b.length % w = 0 → Prop}
    (nil : motive [] (Nat.zero_mod w))
    (append : ∀ c b (hc : c.length = w) (hb : b.length % w = 0), motive b hb → motive (c ++ b) (append_whole hc hb))
    (b : List Byte) (hb : b.length % w = 0) : motive b hb := by
  obtain ⟨n, hn⟩ := Nat.dvd_of_mod_eq_zero hb
  induction n generalizing b with
  | zero =>
    obtain rfl : b = [] := List.length_eq_zero_iff.mp hn
    exact nil
  | succ n ih =>
    rw [Nat.mul_succ] at hn
    obtain ⟨c, b, hc, rfl⟩ : ∃ c b', c.length = w ∧ b = c ++ b' :=
      ⟨b.take w, b.drop w, List.length_take_of_le (by omega), (List.take_append_drop w b).symm⟩
    have hrest : b.length = w * n := by rw [List.length_append, hc] at hn; omega
    have hwhole : b.length % w = 0 := by rw [hrest, Nat.mul_mod_right]
    exact append c b hc hwhole (ih b hwhole hrest)

/-- Reordering starts with the first element, copied or reversed (R208). -/
theorem reorder_append {w : Nat} (hw : 0 < w) {flag ord : ByteOrder} {c b : List Byte} (hc : c.length = w) :
    reorder flag (c ++ b) w ord = (if ord = flag then c else c.reverse) ++ reorder flag b w ord := by
  have hcount : (c ++ b).length / w = b.length / w + 1 := by
    rw [List.length_append, hc, Nat.add_div_left _ hw]
  have hlater (e : Nat) : (c ++ b).drop ((e + 1) * w) = b.drop (e * w) := by
    rw [Nat.succ_mul, Nat.add_comm, ← hc, List.drop_length_add_append]
  have hfirst : (c ++ b).take w = c := hc ▸ List.take_left
  rw [reorder, hcount, List.range_succ_eq_map, List.flatMap_cons, List.flatMap_map]
  simp only [Nat.succ_eq_add_one, hlater, Nat.zero_mul, List.drop_zero, hfirst]
  rfl

/-- The claims' reversal starts with the first element reversed. -/
theorem elementsReversed_append {w : Nat} (hw : 0 < w) {c b : List Byte} (hc : c.length = w) :
    elementsReversed w (c ++ b) = c.reverse ++ elementsReversed w b := by
  rw [elementsReversed, List.length_append, hc, List.range_add, List.map_append, List.map_map]
  congr 1
  · refine List.ext_getElem (by simp [hc]) fun i hi _ => ?_
    have hiw : i < w := by simpa using hi
    have hidx : w - 1 - i < c.length := by omega
    simp [Nat.div_eq_of_lt hiw, Nat.mod_eq_of_lt hiw, List.getElem?_append_left hidx, List.getElem?_eq_getElem hidx, hc]
  · refine List.map_congr_left fun i _ => ?_
    have hidx : (i / w + 1) * w + (w - 1 - i % w) = c.length + (i / w * w + (w - 1 - i % w)) := by
      rw [hc, Nat.succ_mul]
      omega
    simp only [Function.comp_apply, Nat.add_div_left _ hw, Nat.add_mod_left, hidx]
    rw [List.getD_append_right _ _ _ _ (Nat.le_add_right ..), Nat.add_sub_cancel_left]

@[simp] theorem elementsReversed_length (w : Nat) (b : List Byte) : (elementsReversed w b).length = b.length := by
  simp [elementsReversed]

@[simp] theorem elementsReversed_nil (w : Nat) : elementsReversed w [] = [] := rfl

section WholeElements
variable {w : Nat} (hw : 0 < w) {b : List Byte} (hb : b.length % w = 0)
include hw hb

theorem elementsReversed_elementsReversed : elementsReversed w (elementsReversed w b) = b := by
  induction b, hb using wholeElementsInduction with
  | nil => rfl
  | append c b hc _ ih =>
    have hrev : c.reverse.length = w := by rw [List.length_reverse, hc]
    rw [elementsReversed_append hw hc, elementsReversed_append hw hrev, List.reverse_reverse, ih]

/-- On whole elements the model reorders as the claims do (R208). -/
theorem reorder_eq (flag ord : ByteOrder) :
    reorder flag b w ord = if ord = flag then b else elementsReversed w b := by
  induction b, hb using wholeElementsInduction with
  | nil => simp [reorder]
  | append c b hc _ ih =>
    rw [reorder_append hw hc, elementsReversed_append hw hc, ih]
    split_ifs <;> rfl

theorem reorder_flagOrd (s : State) (ord : ByteOrder) : reorder (flagOrd s) b w ord = reordered s ord w b := by
  rw [reorder_eq hw hb, ← orderSeen_eq_flagOrd, reordered]

/-- Reordering with the same width and order is its own inverse (R213). -/
theorem reordered_reordered {s s' : State} (h : orderSeen s' = orderSeen s) (ord : ByteOrder) :
    reordered s' ord w (reordered s ord w b) = b := by
  simp only [reordered, h]
  split
  · rfl
  · exact elementsReversed_elementsReversed hw hb

end WholeElements

@[simp] theorem reordered_length (s : State) (ord : ByteOrder) (w : Nat) (b : List Byte) :
    (reordered s ord w b).length = b.length := by
  unfold reordered
  split <;> simp

/-! ## Element values (R54, R209) -/

@[simp] theorem elementBytes_length (o : ByteOrder) (w v : Nat) : (elementBytes o w v).length = w := by
  cases o <;> simp [elementBytes]

theorem elementBytes_reverse (o : ByteOrder) (w v : Nat) :
    (elementBytes o w v).reverse = elementBytes (opposite o) w v := by
  cases o <;> simp [elementBytes, opposite]

theorem flatMap_elementBytes_length (o : ByteOrder) (w : Nat) (vs : List Nat) :
    (vs.flatMap (elementBytes o w)).length = vs.length * w := by
  simp [List.length_flatMap]

/-- Reversing each element lays its value out in the other order. -/
theorem elementsReversed_flatMap_elementBytes {w : Nat} (hw : 0 < w) (o : ByteOrder) (vs : List Nat) :
    elementsReversed w (vs.flatMap (elementBytes o w)) = vs.flatMap (elementBytes (opposite o) w) := by
  induction vs with
  | nil => rfl
  | cons v vs ih =>
    rw [List.flatMap_cons, List.flatMap_cons, elementsReversed_append hw (elementBytes_length ..),
      elementBytes_reverse, ih]

/-- The order that values laid out in order `o` have after the reordering of R208. -/
def orderAfter (seen ord o : ByteOrder) : ByteOrder :=
  if ord = seen then o else opposite o

theorem reordered_flatMap_elementBytes {w : Nat} (hw : 0 < w) (s : State) (ord o : ByteOrder) (vs : List Nat) :
    reordered s ord w (vs.flatMap (elementBytes o w)) =
      vs.flatMap (elementBytes (orderAfter (orderSeen s) ord o) w) := by
  unfold reordered orderAfter
  split
  · rfl
  · exact elementsReversed_flatMap_elementBytes hw o vs

/-- Values in the order HOST_FLAG names come out in the requested order. -/
@[simp] theorem orderAfter_of_seen (seen ord : ByteOrder) : orderAfter seen ord seen = ord := by
  cases seen <;> cases ord <;> rfl

/-- Values in the requested order come out in the order HOST_FLAG names. -/
@[simp] theorem orderAfter_of_requested (seen ord : ByteOrder) : orderAfter seen ord ord = seen := by
  cases seen <;> cases ord <;> rfl

/-- Values in the order HOST_FLAG does not name come out in the order that was not requested. -/
@[simp] theorem orderAfter_of_opposite_seen (o ord : ByteOrder) : orderAfter (opposite o) ord o = opposite ord := by
  cases o <;> cases ord <;> rfl

/-! ## The order HOST_FLAG names, without and with an override (R209, R301) -/

theorem State.NoOverride.orderSeen_eq {s : State} (h : s.NoOverride) : orderSeen s = s.params.hostByteOrder := by
  obtain h | h := h
  · simp only [orderSeen, h]
  · cases ho : s.params.hostByteOrder <;> simp [orderSeen, h, ho, flagOfOrder]

theorem orderSeen_of_flag {s : State} {o : ByteOrder} (h : s.hostFlag = flagOfOrder o) : orderSeen s = o := by
  cases o <;> simp [orderSeen, h, flagOfOrder]

theorem detected_of_flag {s : State} {o : ByteOrder} (h : s.hostFlag = flagOfOrder o) : detected s = s := by
  rw [detected_eq_detect, detect_of_set s (by simp [h])]

/-! ## Well-formed NUMERIC operands (R102, R104) -/

theorem widthOf_eq_elemWidth (k : ElemKind) : widthOf k = elemWidth k :=
  widthOfCode_code k

/-- A NUMERIC operand of a kind is well formed when it holds whole elements of it. -/
theorem isNumeric_code_iff {k : ElemKind} {b : List Byte} :
    IsNumeric (.numeric k.code b) k.code b ↔ b.length % elemWidth k = 0 := by
  have hcode : k.code.toNat ≤ 10 := (code_le_ten_iff _).mpr ⟨k, ElemKind.ofCode?_code k⟩
  simp [IsNumeric, hcode, widthOfCode_code]

/-- The code of a well-formed NUMERIC operand names a kind, of which it holds whole elements. -/
theorem exists_kind_of_isNumeric {i : InOperand} {ek : BitVec 4} {b : List Byte} (h : IsNumeric i ek b) :
    ∃ k : ElemKind, ek = k.code ∧ b.length % elemWidth k = 0 := by
  obtain ⟨rfl, hcode, hb⟩ := h
  obtain ⟨k, hk⟩ := (code_le_ten_iff ek).mp hcode
  obtain rfl := ElemKind.code_of_ofCode? hk
  exact ⟨k, rfl, widthOfCode_code k ▸ hb⟩

/-- `numeric()` accepts exactly the claims' well-formed NUMERIC operands (R102). -/
theorem acceptNumeric_eq_some_iff {i : InOperand} {k : ElemKind} {b : List Byte} :
    acceptNumeric i = some (k, b) ↔ IsNumeric i k.code b := by
  constructor
  · intro h
    cases i with
    | numeric ek d =>
      simp only [acceptNumeric] at h
      split at h <;> cases h
      obtain ⟨hk, hd⟩ := numericKind?_eq_some_iff.mp ‹_›
      obtain rfl := ElemKind.code_of_ofCode? hk
      exact isNumeric_code_iff.mpr hd
    | raw ek d => cases h
    | view ek d => cases h
    | text ek d => cases h
    | other tag ek d => cases h
  · intro h
    obtain rfl := h.1
    have hk : numericKind? k.code b = some k :=
      numericKind?_eq_some_iff.mpr ⟨ElemKind.ofCode?_code k, isNumeric_code_iff.mp h⟩
    simp only [acceptNumeric, hk]

theorem acceptNumeric_of_not_numeric {i : InOperand} (h : ∀ ek b, ¬ IsNumeric i ek b) : acceptNumeric i = none :=
  Option.eq_none_iff_forall_ne_some.mpr fun ⟨_, _⟩ hk => h _ _ (acceptNumeric_eq_some_iff.mp hk)

/-! ## Host queries and overrides (R201 to R207) -/

/-- Within the bound a host query detects and succeeds in every state. -/
theorem endsWith_hostQuery {result : State → OutResult} {s : State} {r : OutResult} (hin : Within s (inLength s.inp))
    (hout : Within s 1) (hr : result (detect s) = r) : EndsWith (hostQuery result s) (detected s) r := by
  rw [hostQuery, guardIn_of_within (withinMax_eq_true_iff_within.mpr hin),
    guardOut_of_within (withinMax_eq_true_iff_within.mpr hout), hr, detected_eq_detect]
  exact endsWith_complete _ _

theorem flagOfOrder_injective : Function.Injective flagOfOrder := by
  intro a b
  cases a <;> cases b <;> simp [flagOfOrder]

/-- After detection HOST_FLAG is a value exactly when the claims' order is the value's (R200). -/
theorem detect_hostFlag_eq_iff (s : State) (o : ByteOrder) :
    (detect s).hostFlag = flagOfOrder o ↔ orderSeen s = o := by
  rw [detect_hostFlag, flagOfOrder_injective.eq_iff, orderSeen_eq_flagOrd]

theorem forceFlag_of_within (f : HostFlag) {s : State} (hp : s.params.testHooks = .present)
    (hin : Within s (inLength s.inp)) : forceFlag f s = .next (complete { s with hostFlag := f } .none) := by
  simp only [forceFlag, hp, guardIn_of_within (withinMax_eq_true_iff_within.mpr hin),
    guardOut_of_within (withinMax_eq_true_iff_within.mpr (within_zero s))]

theorem forceFlag_of_absent (f : HostFlag) {s : State} (hp : s.params.testHooks = .absent) :
    forceFlag f s = .next (raiseError s ⟨.illegalCommand, 0, 0#3⟩) := by
  simp only [forceFlag, hp]

/-! ## ARRAY_TO_ENDIAN and ARRAY_FROM_ENDIAN (R210, R211) -/

section Arrays
variable {s : State} {k : ElemKind} {ord : ByteOrder} {b : List Byte}

theorem execArrayToEndian_of_numeric (hb : IsNumeric s.inp k.code b) :
    execArrayToEndian ord s = guardIn s (guardOut (detect s) b.length
      (.next (complete (detect s) (.view (reordered s ord (elemWidth k) b))))) := by
  have hnum := acceptNumeric_eq_some_iff.mpr hb
  simp only [execArrayToEndian, hnum, flagOrd_detect, reorder_flagOrd (elemWidth_pos k) (acceptNumeric_spec hnum).2]

theorem execArrayToEndian_of_within (hb : IsNumeric s.inp k.code b) (hw : Within s b.length) :
    execArrayToEndian ord s = .next (complete (detect s) (.view (reordered s ord (elemWidth k) b))) := by
  have hin : Within s (inLength s.inp) := (acceptNumeric_spec (acceptNumeric_eq_some_iff.mpr hb)).1 ▸ hw
  have hout : Within (detect s) b.length := (within_detect s _).mpr hw
  rw [execArrayToEndian_of_numeric hb, guardIn_of_within (withinMax_eq_true_iff_within.mpr hin),
    guardOut_of_within (withinMax_eq_true_iff_within.mpr hout)]

/-- The bytes that ARRAY_TO_ENDIAN leaves are the reordered bytes of IN. -/
theorem execArrayToEndian_view {t : State} {c : List Byte} (hb : IsNumeric s.inp k.code b)
    (h : execArrayToEndian ord s = .next t) (hc : t.out = .view c) : c = reordered s ord (elemWidth k) b := by
  rw [execArrayToEndian_of_numeric hb] at h
  obtain ⟨-, h⟩ := guardIn_eq_next.mp h
  obtain ⟨-, h⟩ := guardOut_eq_next.mp h
  cases h
  cases hc
  rfl

theorem execArrayToEndian_of_not_numeric (hb : ∀ ek b, ¬ IsNumeric s.inp ek b) (hw : Within s (inLength s.inp)) :
    execArrayToEndian ord s = .next (raiseError s ⟨.unsupportedType, 0, 0#3⟩) := by
  simp only [execArrayToEndian, acceptNumeric_of_not_numeric hb,
    guardIn_of_within (withinMax_eq_true_iff_within.mpr hw)]

/-- The check on IN_LEN passes a buffer within the bound (R68). -/
theorem guardIn_of_buffer {o : StepOutcome} (hb : IsBuffer s.inp b) (hw : Within s b.length) : guardIn s o = o := by
  rw [acceptView_length (acceptView_eq_some_iff.mpr hb)] at hw
  exact guardIn_of_within (withinMax_eq_true_iff_within.mpr hw)

theorem arrayFromEndian_of_whole_within (hb : IsBuffer s.inp b) (hw : Within s b.length)
    (hlen : b.length % elemWidth k = 0) :
    arrayFromEndian k ord s = .next (complete (detect s) (.numeric k (reordered s ord (elemWidth k) b))) := by
  have hout : Within (detect s) b.length := (within_detect s _).mpr hw
  rw [arrayFromEndian_of_whole (acceptView_eq_some_iff.mpr hb) hlen, guardIn_of_buffer hb hw,
    guardOut_of_within (withinMax_eq_true_iff_within.mpr hout), reorder_flagOrd (elemWidth_pos k) hlen]

theorem arrayFromEndian_of_partial_within (hb : IsBuffer s.inp b) (hw : Within s b.length)
    (hlen : b.length % elemWidth k ≠ 0) :
    arrayFromEndian k ord s = .next (raiseError s ⟨.incompleteByteSequence, b.length, 0#3⟩) := by
  rw [arrayFromEndian_of_partial (acceptView_eq_some_iff.mpr hb) hlen, guardIn_of_buffer hb hw]

theorem arrayFromEndian_of_not_buffer (hb : ∀ b, ¬ IsBuffer s.inp b) (hw : Within s (inLength s.inp)) :
    arrayFromEndian k ord s = .next (raiseError s ⟨.unsupportedType, 0, 0#3⟩) := by
  simp only [arrayFromEndian, acceptView_eq_none_iff.mpr hb, guardIn_of_within (withinMax_eq_true_iff_within.mpr hw)]

end Arrays

/-- An ARRAY_FROM_ENDIAN word of a kind outside R73 is one of R76's illegal words. -/
theorem illegalFields_of_kind {hooks : TestHooks} {n : Nat} (hop : n % 256 = 0x0B)
    (hkind : n / 512 % 16 = 2 ∨ 10 < n / 512 % 16) : IllegalFields hooks n := by
  simp only [IllegalFields]
  tauto

/-! ## Values through the commands (R209) -/

section Values
variable {s : State} {k : ElemKind} {ord o : ByteOrder} {vs : List Nat}

/-- ARRAY_TO_ENDIAN on values laid out in an order leaves them in the order after reordering. -/
theorem execArrayToEndian_of_values (hinp : s.inp = .numeric k.code (vs.flatMap (elementBytes o (elemWidth k))))
    (hw : Within s (vs.length * elemWidth k)) :
    execArrayToEndian ord s = .next (complete (detected s)
      (.view (vs.flatMap (elementBytes (orderAfter (orderSeen s) ord o) (elemWidth k))))) := by
  rw [← flatMap_elementBytes_length o] at hw
  have hnum : IsNumeric s.inp k.code (vs.flatMap (elementBytes o (elemWidth k))) := by
    rw [hinp, isNumeric_code_iff, flatMap_elementBytes_length, Nat.mul_mod_left]
  rw [execArrayToEndian_of_within hnum hw, reordered_flatMap_elementBytes (elemWidth_pos k), detected_eq_detect]

/-- ARRAY_FROM_ENDIAN on values laid out in an order leaves them in the order after reordering. -/
theorem arrayFromEndian_of_values (hb : IsBuffer s.inp (vs.flatMap (elementBytes o (elemWidth k))))
    (hw : Within s (vs.length * elemWidth k)) :
    arrayFromEndian k ord s = .next (complete (detected s)
      (.numeric k (vs.flatMap (elementBytes (orderAfter (orderSeen s) ord o) (elemWidth k))))) := by
  have hlen := flatMap_elementBytes_length o (elemWidth k) vs
  rw [← hlen] at hw
  rw [arrayFromEndian_of_whole_within hb hw (by rw [hlen, Nat.mul_mod_left]),
    reordered_flatMap_elementBytes (elemWidth_pos k), detected_eq_detect]

end Values

/-! ## What a host action does to the parameters and to HOST_FLAG (R200, R290) -/

theorem ActionEffect.params {s t : State} (h : ActionEffect s t) : t.params = s.params := by
  cases h with
  | command w i hr =>
    obtain ⟨-, -, hparams, -, -⟩ := hr.frame
    exact hparams
  | _ => rfl

/-- The host action writes a word to CMD, in either of its two spellings (R22, R23). -/
def WritesCmd (a : HostAction) (w : Word) : Prop :=
  a = .writeCmd w ∨ a = .writeReg 0 w

/-- What a host action leaves in HOST_FLAG: an override forces it only by its own word, and Reset clears it. -/
inductive FlagEffect (a : HostAction) (s : State) : HostFlag → Prop where
  | kept : FlagEffect a s s.hostFlag
  | detected : FlagEffect a s (detect s).hostFlag
  | forced (o : ByteOrder) (hw : WritesCmd a (encode (overrideTo o))) : FlagEffect a s (flagOfOrder o)
  | cleared (ha : a = .reset) : FlagEffect a s .unset

theorem flagEffect_of_writesCmd {a : HostAction} {w : Word} {s t : State} (ha : WritesCmd a w)
    (h : hostWriteCmd w s = .next t) : FlagEffect a s t.hostFlag := by
  unfold hostWriteCmd at h
  split at h
  · rename_i i hi
    obtain ⟨-, rfl⟩ := decode_eq_ok_iff.mp hi
    obtain ⟨hflag, -⟩ | ⟨hflag, -⟩ | ⟨-, -, o, rfl, hflag⟩ := (exec_next_ran h).hostFlag <;> rw [hflag]
    · exact .kept
    · rw [detect_hostFlag]
      exact detect_hostFlag s ▸ .detected
    · exact .forced o ha
  · cases h
    exact .kept

theorem flagEffect_of_hostAct {a : HostAction} {s t : State} (h : hostAct a s = .next t) :
    FlagEffect a s t.hostFlag := by
  cases a with
  | setIn desc d =>
    simp only [hostAct, hostSetIn] at h
    split at h <;> cases h
    exact .kept
  | writeCmd w => exact flagEffect_of_writesCmd (.inl rfl) h
  | writeReg offset v =>
    cases offset with
    | zero => exact flagEffect_of_writesCmd (.inr rfl) h
    | succ n =>
      simp only [hostAct, hostWriteReg] at h
      split at h <;> cases h
      exact .kept
  | readReg offset => cases h; exact .kept
  | readOut =>
    simp only [hostAct, hostReadOut] at h
    split at h <;> cases h <;> exact .kept
  | moveOutToIn =>
    simp only [hostAct, hostMoveOutToIn] at h
    split at h <;> cases h <;> exact .kept
  | reset => cases h; exact .cleared rfl

/-- Detection finds the host's own order when no override was performed (R200, R301). -/
theorem State.NoOverride.detect_flag {s : State} (h : s.NoOverride) :
    (detect s).hostFlag = flagOfOrder s.params.hostByteOrder :=
  (detect_hostFlag_eq_iff s _).mpr h.orderSeen_eq

/-- The words of the overrides are 0x0C and 0x0D (R74). -/
theorem ne_encode_overrideTo {w : Word} (h : w ≠ 0x0000000C#32 ∧ w ≠ 0x0000000D#32) :
    ∀ o, w ≠ encode (overrideTo o)
  | .little => h.1
  | .big => h.2

/-- Only a write of an override's word ends the premise of R301. -/
theorem FlagEffect.noOverride {a : HostAction} {s t : State} (h : FlagEffect a s t.hostFlag) (hs : s.NoOverride)
    (hparams : t.params = s.params) (hno : ∀ o, ¬ WritesCmd a (encode (overrideTo o))) : t.NoOverride := by
  unfold State.NoOverride
  rw [hparams]
  generalize t.hostFlag = f at h ⊢
  cases h with
  | kept => exact hs
  | detected => exact .inr hs.detect_flag
  | forced o hw => exact absurd hw (hno o)
  | cleared ha => exact .inl rfl

end Sys2Proof.Machine

namespace Sys2Proof.Proofs
open Sys2Proof.Machine Sys2Proof.Claims

/-- Settles O30: `numeric()` accepts exactly the well-formed NUMERIC operands, whose whole elements are reordered. -/
theorem arrayToEndianFollowsItsRule : Obligations.ArrayToEndianFollowsItsRule := by
  refine ⟨fun _ => ⟨rfl, rfl⟩, fun s ord => ⟨fun ek b hb hw => ?_, fun hb hw => ?_⟩⟩
  · obtain ⟨k, rfl, -⟩ := exists_kind_of_isNumeric hb
    rw [exec, execArrayToEndian_of_within hb hw, widthOfCode_code, detected_eq_detect]
    exact endsWith_complete _ _
  · rw [exec, execArrayToEndian_of_not_numeric hb hw]
    exact endsInError_raiseError s _

/-- Settles O31: the words are the encoder's, and the ten commands are the one meaning of R211. -/
theorem arrayFromEndianFollowsItsRule : Obligations.ArrayFromEndianFollowsItsRule := by
  refine ⟨fun hooks ord k i hi => ?_, fun hooks w i hop hkind hd => ?_,
    fun s ord k i hi => ⟨fun b hb hw => ?_, fun hb hw => ?_⟩⟩
  · have hword := eq_ofNat_of_toNat_eq (encode_fromEndianCommand_toNat hi)
    exact decode_eq_ok_iff.mpr ⟨wellFormed_fromEndianCommand hi hooks, hword⟩
  · obtain ⟨r, hr⟩ := decode_error_of_illegalFields (hooks := hooks) (illegalFields_of_kind hop hkind)
    cases hd.symm.trans hr
  · rw [exec_fromEndianCommand hi, widthOf_eq_elemWidth, detected_eq_detect]
    refine ⟨fun hlen => ?_, fun hlen => ?_⟩
    · rw [arrayFromEndian_of_whole_within hb hw hlen]
      exact endsWith_complete _ _
    · rw [arrayFromEndian_of_partial_within hb hw hlen]
      exact endsInError_raiseError s _
  · rw [exec_fromEndianCommand hi, arrayFromEndian_of_not_buffer hb hw]
    exact endsInError_raiseError s _

/-- Settles O32: reordering whole elements twice with one width and order gives them back. -/
theorem fromEndianUndoesToEndian : Obligations.FromEndianUndoesToEndian := by
  intro s t s' ord k i b c hb h hc hi hbuf hseen hw
  obtain rfl := execArrayToEndian_view hb h hc
  have hlen : b.length % elemWidth k = 0 := (acceptNumeric_spec (acceptNumeric_eq_some_iff.mpr hb)).2
  rw [exec_fromEndianCommand hi, arrayFromEndian_of_whole_within hbuf hw (by rwa [reordered_length]),
    reordered_reordered (elemWidth_pos k) hlen hseen, detected_eq_detect]
  exact endsWith_complete _ _

/-- Settles O33: the values end in the order that `orderAfter` gives, HOST_FLAG naming the host's order or the other. -/
theorem elementValuesFollowTheRequestedOrder : Obligations.ElementValuesFollowTheRequestedOrder := by
  intro s ord k vs
  rw [widthOf_eq_elemWidth]
  refine ⟨fun hinp hw => ⟨fun hno => ?_, fun hforced => ?_⟩,
    fun i hi hb hw => ⟨fun hno => ?_, fun hforced => ?_⟩⟩
  · rw [exec, execArrayToEndian_of_values hinp hw, hno.orderSeen_eq, orderAfter_of_seen]
    exact endsWith_complete _ _
  · rw [exec, execArrayToEndian_of_values hinp hw, orderSeen_of_flag hforced, detected_of_flag hforced,
      orderAfter_of_opposite_seen]
    exact endsWith_complete _ _
  · rw [exec_fromEndianCommand hi, arrayFromEndian_of_values hb hw, hno.orderSeen_eq, orderAfter_of_requested]
    exact endsWith_complete _ _
  · rw [exec_fromEndianCommand hi, arrayFromEndian_of_values hb hw, orderSeen_of_flag hforced,
      detected_of_flag hforced, orderAfter_of_requested]
    exact endsWith_complete _ _

/-- Settles O35: a step is idle or one host action, which changes no parameter and forces HOST_FLAG only by an
override's word. -/
theorem noOverrideUntilOneIsPerformed : Obligations.NoOverrideUntilOneIsPerformed := by
  intro s t h
  cases hhost : s.host with
  | nil =>
    simp only [step, hhost] at h
    cases h
    exact ⟨rfl, fun hs _ _ => hs⟩
  | cons a rest =>
    rw [step_cons hhost] at h
    have hparams : t.params = s.params := (hostAct_next h).params
    refine ⟨hparams, fun hs hcmd hreg => (flagEffect_of_hostAct h).noOverride hs hparams ?_⟩
    rintro o (rfl | rfl)
    · exact ne_encode_overrideTo (hcmd _ rfl) o rfl
    · exact ne_encode_overrideTo (hreg _ rfl) o rfl

/-- Settles O28: a host query reads the flag that detection leaves, and gives no other result. -/
theorem hostQueriesReportTheFlag : Obligations.HostQueriesReportTheFlag := by
  refine ⟨fun _ => ⟨rfl, rfl, rfl⟩, fun s hin hout => ?_⟩
  simp only [exec, execHostIsBig, execHostIsLittle, execHostEndianness]
  refine ⟨endsWith_hostQuery hin hout ?_, endsWith_hostQuery hin hout ?_, endsWith_hostQuery hin hout ?_⟩
  · exact congrArg OutResult.bool (decide_eq_decide.mpr (detect_hostFlag_eq_iff s .big))
  · exact congrArg OutResult.bool (decide_eq_decide.mpr (detect_hostFlag_eq_iff s .little))
  · rw [flagOrd_detect, orderSeen_eq_flagOrd]

/-- Settles O29: with the hooks an override forces the flag, without them it is illegal. -/
theorem overridesForceTheFlag : Obligations.OverridesForceTheFlag := by
  refine ⟨⟨rfl, rfl⟩, fun s => ⟨fun hp hin => ?_, fun hp => ?_⟩⟩
  · rw [exec, exec, execTestForceLittle, execTestForceBig, forceFlag_of_within _ hp hin, forceFlag_of_within _ hp hin]
    exact ⟨endsWith_complete _ _, endsWith_complete _ _⟩
  · rw [exec, exec, execTestForceLittle, execTestForceBig, forceFlag_of_absent _ hp, forceFlag_of_absent _ hp]
    exact ⟨endsInError_raiseError s _, endsInError_raiseError s _⟩

end Sys2Proof.Proofs
end

section
/-!
SUPPORT. The host's two actions on OUT: what ReadOUT gives (R270) and what MOVE_OUT_TO_IN makes of a result (R271).
-/
namespace Sys2Proof.Machine

/-! ## ReadOUT (R270) -/

theorem hostReadOut_of_result {s : State} (h : s.out ≠ .none) :
    hostReadOut s = .next { s with replies := s.replies ++ [.out s.out] } := by
  unfold hostReadOut
  cases hout : s.out with
  | none => exact absurd hout h
  | view d | text d | numeric k d | bool b | order o => rfl

/-! ## MOVE_OUT_TO_IN (R271) -/

/-- The operand that a result becomes in IN: a result that is no buffer becomes a VIEW of its one byte (R271); EK is 0
outside NUMERIC (log 25). -/
inductive Retagged : OutResult → InOperand → Prop where
  | view (d : List Byte) : Retagged (.view d) (.view 0#4 d)
  | text (d : List TextUnit) : Retagged (.text d) (.text 0#4 d)
  | numeric (k : ElemKind) (d : List Byte) : Retagged (.numeric k d) (.numeric k.code d)
  | bool (b : Bool) : Retagged (.bool b) (.view 0#4 [if b then 1#8 else 0#8])
  | order (o : ByteOrder) : Retagged (.order o) (.view 0#4 [if o = .little then 0#8 else 1#8])

/-- The codes of R72, as a byte. -/
theorem orderByte_eq_ite (o : ByteOrder) : orderByte o = if o = .little then 0#8 else 1#8 := by
  cases o <;> rfl

/-- Re-tagging keeps the elements. -/
theorem Retagged.inElems_eq {r : OutResult} {op : InOperand} (h : Retagged r op) : inElems op = outElems r := by
  cases h with
  | view d | text d | numeric k d | bool b => rfl
  | order o => rw [outElems, orderByte_eq_ite]; rfl

/-- A result has one re-tagged operand. -/
theorem Retagged.unique {r : OutResult} {op op' : InOperand} (h : Retagged r op) (h' : Retagged r op') : op = op' := by
  cases h <;> cases h' <;> rfl

theorem hostMoveOutToIn_of_none {s : State} (h : s.out = .none) : hostMoveOutToIn s = .fault .moveOutWhileNone := by
  simp only [hostMoveOutToIn, h]

theorem hostMoveOutToIn_of_result {s : State} (h : s.out ≠ .none) :
    ∃ op, hostMoveOutToIn s = .next { s with inp := op } ∧ Retagged s.out op := by
  unfold hostMoveOutToIn
  cases hout : s.out with
  | none => exact absurd hout h
  | view d => exact ⟨_, rfl, .view d⟩
  | text d => exact ⟨_, rfl, .text d⟩
  | numeric k d => exact ⟨_, rfl, .numeric k d⟩
  | bool b => exact ⟨_, rfl, .bool b⟩
  | order o => exact ⟨_, rfl, orderByte_eq_ite o ▸ .order o⟩

end Sys2Proof.Machine

namespace Sys2Proof.Proofs
open Sys2Proof.Machine

/-- Settles O44: the action taken from the list is ReadOUT, which replies with OUT. -/
theorem readOutGivesTheResult : Obligations.ReadOutGivesTheResult := by
  intro s rest h hout
  exact (step_cons h).trans (hostReadOut_of_result hout)

/-- Settles O45: IN becomes the one operand that `Retagged` gives the result. -/
theorem moveOutToInRetags : Obligations.MoveOutToInRetags := by
  intro s rest h
  rw [step_cons h]
  refine ⟨fun hout => hostMoveOutToIn_of_none hout, fun hout => ?_⟩
  obtain ⟨op, hop, hr⟩ := hostMoveOutToIn_of_result (s := { s with host := rest }) hout
  exact ⟨op, hop, hr.inElems_eq,
    fun d hd => hr.unique (hd ▸ .view d), fun d hd => hr.unique (hd ▸ .text d),
    fun k d hd => hr.unique (hd ▸ .numeric k d), fun b hd => hr.unique (hd ▸ .bool b),
    fun o hd => hr.unique (hd ▸ .order o)⟩

end Sys2Proof.Proofs
end

section
/-!
SUPPORT. What only a reset takes back: the valid flags of the tables, STATUS.VALID and a HOST_FLAG that is set (R292).
-/
namespace Sys2Proof.Machine

/-! ## Valid tables and STATUS.VALID (R28, R32) -/

/-- Every table that is valid in `s` is valid in `t`, and STATUS.VALID stays 1. -/
structure ValidKept (s t : State) : Prop where
  tables : ∀ u, tableValid s u = true → tableValid t u = true
  status : statusValid s.status = 1#1 → statusValid t.status = 1#1

/-- A completion sets STATUS.VALID, on success and on error (R82, R252). -/
theorem Completed.statusValid {s t : State} (h : Completed s t) : statusValid t.status = 1#1 := by
  cases h <;> exact statusValid_statusWord _ _

/-- A command invalidates no table: it keeps each or builds it. -/
theorem Ran.validKept {i : Instr} {s t : State} (h : Ran i s t) : ValidKept s t where
  tables u hu := by
    obtain ⟨-, hkept⟩ | ⟨-, -, -, hbuilt⟩ := h.table u
    · rw [hkept, hu]
    · exact hbuilt
  status _ :=
    have ⟨_, _, hc⟩ := h
    hc.statusValid

/-- A legal word runs its command, and an illegal one changes no table (R76, R80). -/
theorem validKept_of_hostWriteCmd {w : Word} {s t : State} (h : hostWriteCmd w s = .next t) : ValidKept s t := by
  unfold hostWriteCmd at h
  split at h
  · obtain ⟨tables, status⟩ := (exec_next_ran h).validKept
    exact ⟨tables, status⟩
  · cases h
    exact ⟨fun _ hu => hu, fun _ => statusValid_statusWord _ _⟩

/-- Outside Reset and the write of CMD, a host action changes no more than IN and the replies (R22, R270, R271). -/
theorem hostAct_next_of_ne_reset {a : HostAction} {s t : State} (ha : a ≠ .reset) (h : hostAct a s = .next t) :
    (∃ w, hostWriteCmd w s = .next t) ∨ t = { s with inp := t.inp, replies := t.replies } := by
  cases a with
  | setIn desc d =>
    simp only [hostAct, hostSetIn] at h
    split at h <;> cases h
    exact .inr rfl
  | writeCmd w => exact .inl ⟨w, h⟩
  | writeReg offset v =>
    cases offset with
    | zero => exact .inl ⟨v, h⟩
    | succ n =>
      simp only [hostAct, hostWriteReg] at h
      split at h <;> cases h
      exact .inr rfl
  | readReg offset => cases h; exact .inr rfl
  | readOut =>
    simp only [hostAct, hostReadOut] at h
    split at h <;> cases h <;> exact .inr rfl
  | moveOutToIn =>
    simp only [hostAct, hostMoveOutToIn] at h
    split at h <;> cases h <;> exact .inr rfl
  | reset => exact absurd rfl ha

theorem validKept_of_hostAct {a : HostAction} {s t : State} (ha : a ≠ .reset) (h : hostAct a s = .next t) :
    ValidKept s t := by
  obtain ⟨w, hw⟩ | heq := hostAct_next_of_ne_reset ha h
  · exact validKept_of_hostWriteCmd hw
  · rw [heq]
    exact ⟨fun _ hu => hu, id⟩

/-! ## A HOST_FLAG that is set (R200, R205) -/

/-- A HOST_FLAG that is set is kept or forced to another value, never cleared, by any action but Reset. -/
theorem FlagEffect.kept_or_forced {a : HostAction} {s : State} {f : HostFlag} (h : FlagEffect a s f) (ha : a ≠ .reset)
    (hs : s.hostFlag ≠ .unset) :
    f = s.hostFlag ∨ ∃ o, WritesCmd a (encode (overrideTo o)) ∧ f = flagOfOrder o := by
  cases h with
  | kept => exact .inl rfl
  | detected => exact .inl (by rw [detect_of_set s hs])
  | forced o hw => exact .inr ⟨o, hw, rfl⟩
  | cleared hreset => exact absurd hreset ha

end Sys2Proof.Machine

namespace Sys2Proof.Proofs
open Sys2Proof.Machine

/-- Settles O34: a step is idle or one host action, and of these only Reset clears the flag, a table or STATUS.VALID. -/
theorem onlyResetUndoes : Obligations.OnlyResetUndoes := by
  intro s t h hne
  cases hhost : s.host with
  | nil =>
    simp only [step, hhost] at h
    cases h
    exact ⟨id, fun _ _ => rfl, id, id, id, id⟩
  | cons a rest =>
    rw [step_cons hhost] at h
    have ha : a ≠ .reset := by simpa [hhost] using hne
    have hvalid := validKept_of_hostAct ha h
    have hflag (hs : s.hostFlag ≠ .unset) := (flagEffect_of_hostAct h).kept_or_forced ha hs
    refine ⟨fun hs => ?_, fun hs hno => ?_, hvalid.tables .hex, hvalid.tables .std, hvalid.tables .url,
      hvalid.status⟩
    · obtain hkept | ⟨o, -, hforced⟩ := hflag hs
      · exact hkept ▸ hs
      · exact hforced ▸ flagOfOrder_ne_unset o
    · obtain hkept | ⟨o, hw, -⟩ := hflag hs
      · exact hkept
      · exact absurd rfl (ne_encode_overrideTo (hno _ (by simpa [WritesCmd] using hw)) o)

end Sys2Proof.Proofs
end
